-- ==== Sys2Proof/Word.lean ====
section
/-! DEFINITION. The word types of the OTP engine: bytes of the byte buffers, 32-bit registers (R20) and
64-bit values held in register pairs (R76). -/

namespace Sys2Proof

/-- One byte of a byte buffer, of a key, of a hashed message or of a digest (R44). -/
abbrev Byte := BitVec 8

/-- One 32-bit register, one bus word, one command word (R20, R70, R90). -/
abbrev Word := BitVec 32

/-- A 64-bit value: `TIME`, `OFFSET`, `COUNTER` (R9, R76). -/
abbrev DWord := BitVec 64

end Sys2Proof
end

