-- ==== Sys2Proof/Syntax.lean ====
section
/-! DEFINITION. The commands of the block: one constructor per row of the opcode table (R92, R94). -/

namespace Sys2Proof

/-- A command word as the engine dispatches it (R95). The five commands carry no operands (R93): every operand is an
input register. `invalid` keeps the word, so that each of the 2^32 words is one term. -/
inductive Instr where
  /-- `DECODE`, OPCODE 0x01 (R120). -/
  | decode
  /-- `COUNTER`, OPCODE 0x02 (R135). -/
  | counter
  /-- `HOTP`, OPCODE 0x03 (R164). -/
  | hotp
  /-- `TOTP`, OPCODE 0x04 (R165). -/
  | totp
  /-- `CLEAR`, OPCODE 0x05 (R220). -/
  | clear
  /-- Any word R94 calls invalid (R221). -/
  | invalid (word : Word)
deriving DecidableEq, Repr

end Sys2Proof
end

