-- ==== Sys2Proof/WellFormed.lean ====
section
/-! DEFINITION. Which terms of `Instr` are commands: an `invalid` term must carry a word that R94 calls invalid. -/

namespace Sys2Proof

/-- R94: a word is invalid when its MBZ field (bits 31:8) is not zero, or its OPCODE (bits 7:0) is 0x00 or
0x06..0xFF. -/
def invalidWord (w : Word) : Bool :=
  w.extractLsb' 8 24 != 0 || w.extractLsb' 0 8 == 0 || decide (6 ≤ (w.extractLsb' 0 8).toNat)

/-- The well-formed commands. -/
def Instr.wf : Instr → Bool
  | .decode => true
  | .counter => true
  | .hotp => true
  | .totp => true
  | .clear => true
  | .invalid w => invalidWord w

end Sys2Proof
end

