-- ==== Sys2Proof/Decode.lean ====
section
/-! DEFINITION. The decoder (R95), total on any bytes and rejecting by name, and after it the encoder. A command is the
one 32-bit word of format CMDW (R90, R91); its bytes are the little-endian lanes of a bus word (R72). -/

namespace Sys2Proof

/-- R72: byte lane `j` of a bus word is bits [8j+7 : 8j]. -/
def lane (w : Word) (j : Nat) : Byte := w.extractLsb' (8 * j) 8

/-- R72: the bus word whose lanes 0, 1, 2, 3 are the four bytes. -/
def ofLanes (b0 b1 b2 b3 : Byte) : Word := b3 ++ b2 ++ b1 ++ b0

/-- The bytes of a bus word, lane 0 first: lane `j` is the byte at address `off + j` (R72). -/
def wordBytes (w : Word) : List Byte := [lane w 0, lane w 1, lane w 2, lane w 3]

/-- Why bytes are not a command. -/
inductive DecodeError where
  /-- Fewer than the four bytes of a command word (R91). -/
  | truncated (got : Nat)
deriving DecidableEq, Repr

/-- R95: dispatch of a command word. MBZ is looked at before OPCODE, and every other word is invalid (R94). -/
def decodeWord (w : Word) : Instr :=
  if w.extractLsb' 8 24 ≠ 0 then .invalid w
  else match (w.extractLsb' 0 8).toNat with
    | 0x01 => .decode
    | 0x02 => .counter
    | 0x03 => .hotp
    | 0x04 => .totp
    | 0x05 => .clear
    | _ => .invalid w

/-- Decode the command at the head of a byte string; the bytes after its one word are handed back. -/
def decodeBytes : List Byte → Except DecodeError (Instr × List Byte)
  | b0 :: b1 :: b2 :: b3 :: rest => .ok (decodeWord (ofLanes b0 b1 b2 b3), rest)
  | short => .error (.truncated short.length)

/-- R92: the command word of each command. -/
def encode : Instr → Word
  | .decode => 0x00000001
  | .counter => 0x00000002
  | .hotp => 0x00000003
  | .totp => 0x00000004
  | .clear => 0x00000005
  | .invalid w => w

/-- The command word as bytes, lane 0 first (R72). -/
def encodeBytes (i : Instr) : List Byte := wordBytes (encode i)

/-- What the decoder reads from an instruction of the opcode table: the low `nbits` bits of `w`, laid out in the
block's byte order. -/
def decodeTableWord (nbits w : Nat) : Option Instr :=
  match decodeBytes (wordBytes (BitVec.ofNat 32 (w % 2 ^ nbits))) with
  | .ok (i, _) => some i
  | .error _ => none

end Sys2Proof
end

