-- ==== Sys2Proof/Config.lean ====
section
/-! DEFINITION. The implementation parameters of the block (R9): the fixed sizes, and the platform parameter
`BASE`, which the spec leaves OPEN and which is therefore a constant without a body. -/

namespace Sys2Proof.Config

/-- `WINDOW` (R9): the bytes of address space the block occupies. -/
def windowBytes : Nat := 4096

/-- `MIN_SECRET_CHARS` (R9). -/
def minSecretChars : Nat := 16

/-- `MAX_SECRET_CHARS` (R9): the size of the secret buffer. -/
def maxSecretChars : Nat := 256

/-- `SECRET_MULTIPLE` (R9). -/
def secretMultiple : Nat := 8

/-- `MAX_KEY_BYTES` (R9): 256 · 5 / 8, the size of the key buffer. -/
def maxKeyBytes : Nat := 160

/-- The platform parameter behind `BASE` (R9, I2): OPEN, so it has no body and every claim holds for any value.
Free value, log entry 4. -/
opaque basePage : Nat

/-- `BASE` (R9): the bus address of offset 0x000, 4096-byte aligned. -/
def base : Nat := windowBytes * basePage

end Sys2Proof.Config
end

