-- ==== Sys2Proof/Machine/State.lean ====
section
/-! DEFINITION. Everything the spec gives the block as state (R20 to R59), the port's schedule and last response, the
reasons a step can stop, and the state after reset. -/

namespace Sys2Proof.Machine

/-- `STATUS.ERRCODE` (R31, R230). Codes 7..15 are never produced (R230, I8), so they have no constructor. -/
inductive ErrCode where
  /-- NONE, code 0: the command succeeded. -/
  | noError
  /-- INVALID_SECRET_LENGTH, code 1 (R232). -/
  | invalidSecretLength
  /-- INVALID_SECRET_ALPHABET, code 2 (R233). -/
  | invalidSecretAlphabet
  /-- INVALID_DIGITS, code 3 (R234). -/
  | invalidDigits
  /-- INVALID_ALGORITHM, code 4 (R235). -/
  | invalidAlgorithm
  /-- INVALID_PERIOD, code 5 (R236). -/
  | invalidPeriod
  /-- INVALID_COMMAND, code 6 (R237). -/
  | invalidCommand
deriving DecidableEq, Repr

/-- The registers of the input group that hold a value (R52; `CMD` holds none, R25). The snapshot of R55 is a copy of
this record. -/
structure Inputs where
  /-- `CONFIG` (R32). -/
  config : Word
  /-- `PERIOD` (R33). -/
  period : Word
  /-- `SECRET_LEN` (R34). -/
  secretLen : Word
  /-- `OFFSET_LO` (R35). -/
  offsetLo : Word
  /-- `OFFSET_HI` (R35). -/
  offsetHi : Word
  /-- `TIME_LO` (R36). -/
  timeLo : Word
  /-- `TIME_HI` (R36). -/
  timeHi : Word
  /-- `COUNTER_LO` (R37). -/
  counterLo : Word
  /-- `COUNTER_HI` (R37). -/
  counterHi : Word
  /-- `SECRET0`..`SECRET63` (R45). -/
  secret : Vector Word 64
deriving DecidableEq, Repr

/-- The result group (R53). -/
structure Results where
  /-- `KEY_LEN` (R38). -/
  keyLen : Word
  /-- `TRUNC_OFF` (R39). -/
  truncOff : Word
  /-- `TRUNC` (R40). -/
  trunc : Word
  /-- `CODE` (R41). -/
  code : Word
  /-- `OTP_ASCII0` (R42). -/
  otpAscii0 : Word
  /-- `OTP_ASCII1` (R42). -/
  otpAscii1 : Word
  /-- `DIGEST_LEN` (R43). -/
  digestLen : Word
  /-- `DIGEST0`..`DIGEST15` (R47). -/
  digest : Vector Word 16
  /-- `KEY0`..`KEY39` (R46). -/
  key : Vector Word 40
deriving DecidableEq, Repr

/-- The hidden state of R54. `phase` is the constructor: `op`, `snap` and `lat` hold a value exactly while a command
runs. -/
inductive Engine where
  /-- phase = IDLE. -/
  | idle
  /-- phase = BUSY: the accepted command word, the snapshot of the input group, and the clock cycles left before
  completion. -/
  | busy (op : Word) (snap : Inputs) (lat : Nat)
deriving DecidableEq, Repr

/-- What a host access does (R70). A write carries its byte strobes: bit `j` enables lane `j` (R71). -/
inductive AccessKind where
  | read
  | write (data : Word) (strobes : BitVec 4)
deriving DecidableEq, Repr

/-- One host access inside the window: the offset from `BASE`, the size in bytes, and what it does (R70, R71). -/
structure Access where
  off : BitVec 12
  size : Nat
  kind : AccessKind
deriving DecidableEq, Repr

/-- What the outside world does at the block's port in one clock cycle (R7, R84). -/
inductive Event where
  /-- A host access arrives. `latency` is the `LATENCY` the engine takes if this access starts a command: R9 leaves it
  OPEN per command and per run, so the schedule carries it (R268; log entry 1). -/
  | access (a : Access) (latency : Nat)
  /-- A cycle without a host access. -/
  | quiet
  /-- `rst` is driven to this level: `true` asserted, `false` released (R260; log entry 6). -/
  | rst (level : Bool)
deriving DecidableEq, Repr

/-- A bus response (R70). -/
inductive Resp where
  | okay
  | error
deriving DecidableEq, Repr

/-- What the block answered to a host access: a read has data and a response, a write a response (R70). -/
inductive BusReply where
  | read (data : Word) (resp : Resp)
  | write (resp : Resp)
deriving DecidableEq, Repr

/-- The state of the block. `ID`, `VERSION` and reserved bits are constants and `CMD` holds no value (R22, R23, R49,
R25); `STATUS.BUSY`, `STATUS.ERR` and `irq` are computed (R27, R29, R57). -/
structure State where
  /-- `CTRL.IRQ_EN` (R24). -/
  irqEn : Bool
  /-- `STATUS.DONE` (R28). -/
  done : Bool
  /-- `STATUS.WDROP` (R30). -/
  wdrop : Bool
  /-- `STATUS.ERRCODE` (R31). -/
  errcode : ErrCode
  /-- The input group (R52). -/
  inputs : Inputs
  /-- The result group (R53). -/
  results : Results
  /-- phase, `op`, `snap` and `lat` (R54). -/
  engine : Engine
  /-- The level of the reset input `rst`: `true` while it is asserted (R260). -/
  rst : Bool
  /-- The model's own: what arrives at the port, in arrival order (R84; log entry 2). -/
  pending : List Event
  /-- The model's own: the answer to the last host access served, `none` before the first (R70; log entry 3). -/
  reply : Option BusReply
deriving DecidableEq, Repr

/-- Why the machine stops with a fault: there is no reason. No error, bus error or dropped write stops the block or
transfers control (R242), so this closed type has no constructor. -/
inductive Fault where
deriving DecidableEq, Repr

/-- Why a step has no transition. -/
inductive Refusal where
  /-- An instruction whose meaning is not written. Raised by no arm of `exec`. Safe. -/
  | notModelled (mnemonic : String)
  /-- A host access while `rst` is asserted. R263: 'The response to such an access is not specified. A model gives the
  host no step while reset is asserted.' Raised by `step` only. Safe. -/
  | accessDuringReset
  /-- `exec` was asked to complete a command in a state in which none runs. R56 enables completion only while
  phase = BUSY. Raised by every meaning on an idle engine, never by `step`. Safe. -/
  | noCommandRunning
deriving DecidableEq, Repr

/-- The reset values of the input group (R59): DIGITS = 6, ALG = SHA1, PERIOD = 30, everything else 0. -/
def Inputs.reset : Inputs where
  config := 0x00000006
  period := 0x0000001E
  secretLen := 0
  offsetLo := 0
  offsetHi := 0
  timeLo := 0
  timeHi := 0
  counterLo := 0
  counterHi := 0
  secret := Vector.replicate 64 0

/-- The result group at zero: its reset value (R59), and what acceptance leaves (R55). -/
def Results.zero : Results where
  keyLen := 0
  truncOff := 0
  trunc := 0
  code := 0
  otpAscii0 := 0
  otpAscii1 := 0
  digestLen := 0
  digest := Vector.replicate 16 0
  key := Vector.replicate 40 0

/-- The block right after reset (R59, R260), with nothing arriving at its port. -/
def State.reset : State where
  irqEn := false
  done := false
  wdrop := false
  errcode := .noError
  inputs := Inputs.reset
  results := Results.zero
  engine := .idle
  rst := false
  pending := []
  reply := none

end Sys2Proof.Machine
end

