-- ==== Sys2Proof/Machine/Operands.lean ====
section
/-! DEFINITION. Operands of the commands (R93, R96) and the packing of byte buffers (R44): every operand is an input
register as the snapshot holds it. -/

namespace Sys2Proof.Machine

/-! ## Byte buffers -/

/-- R44: byte `i` of a byte buffer is lane `i mod 4` of word register `floor(i / 4)`. -/
def bufferByte {n : Nat} (buf : Vector Word n) (i : Nat) : Byte := lane (buf[i / 4]?.getD 0) (i % 4)

/-- R44: word register `k` of a buffer that holds `bytes` from byte 0 on, and 0x00 after them. -/
def packWord (bytes : List Byte) (k : Nat) : Word :=
  ofLanes (bytes.getD (4 * k) 0) (bytes.getD (4 * k + 1) 0) (bytes.getD (4 * k + 2) 0) (bytes.getD (4 * k + 3) 0)

/-- R44: a buffer of `n` word registers that holds `bytes`, and 0x00 in the bytes after them. -/
def packBuffer (n : Nat) (bytes : List Byte) : Vector Word n :=
  ⟨((List.range n).map (packWord bytes)).toArray, by simp⟩

/-! ## Byte order of numbers -/

/-- The `n`-byte big-endian encoding of a number: byte 0 is the most significant (R12 `BE64`, R182 `BEn`). -/
def beBytes (n v : Nat) : List Byte := (List.range n).map fun i => BitVec.ofNat 8 (v >>> (8 * (n - 1 - i)))

/-- The number a byte string spells big-endian (R78, R180). -/
def beNat (bytes : List Byte) : Nat := bytes.foldl (fun acc b => acc * 256 + b.toNat) 0

/-- `BE64` (R12, R77): the 8-byte big-endian encoding of a u64. -/
def be64 (c : DWord) : List Byte := beBytes 8 c.toNat

/-! ## The operands of R93 -/

/-- `SECRET_LEN`: all 32 bits, unsigned. -/
def Inputs.length (inp : Inputs) : Nat := inp.secretLen.toNat

/-- `DIGITS = zext_32(CONFIG[3:0])`. -/
def Inputs.digits (inp : Inputs) : Nat := (inp.config.extractLsb' 0 4).toNat

/-- `ALG = CONFIG[9:8]`. -/
def Inputs.algField (inp : Inputs) : BitVec 2 := inp.config.extractLsb' 8 2

/-- `PERIOD`: all 32 bits, unsigned. -/
def Inputs.periodSeconds (inp : Inputs) : Nat := inp.period.toNat

/-- `OFFSET_HI ++ OFFSET_LO`; `OFFSET` is this pattern read as two's complement (`toInt`). -/
def Inputs.offset (inp : Inputs) : DWord := inp.offsetHi ++ inp.offsetLo

/-- `TIME = TIME_HI ++ TIME_LO`. -/
def Inputs.time (inp : Inputs) : DWord := inp.timeHi ++ inp.timeLo

/-- `COUNTER = COUNTER_HI ++ COUNTER_LO`. -/
def Inputs.counter (inp : Inputs) : DWord := inp.counterHi ++ inp.counterLo

/-- `SECRET_BYTE(i)` (R44). -/
def Inputs.secretByte (inp : Inputs) (i : Nat) : Byte := bufferByte inp.secret i

/-- The secret characters `SECRET_BYTE(0..SECRET_LEN-1)`; read only after V1, so SECRET_LEN ≤ 256 (R93, R112). -/
def Inputs.secretChars (inp : Inputs) : List Byte := (List.range inp.length).map inp.secretByte

/-! ## The algorithm field (R96) -/

/-- The three hash functions of R96. -/
inductive Alg where
  | sha1
  | sha256
  | sha512
deriving DecidableEq, Repr

/-- R96: the algorithm an ALG value selects; 3 selects none. -/
def Alg.ofField (f : BitVec 2) : Option Alg :=
  match f.toNat with
  | 0 => some .sha1
  | 1 => some .sha256
  | 2 => some .sha512
  | _ => none

/-- R96: the block size `B` in bytes. -/
def Alg.blockBytes : Alg → Nat
  | .sha1 => 64
  | .sha256 => 64
  | .sha512 => 128

/-- R96: the digest length `L` in bytes. -/
def Alg.digestLen : Alg → Nat
  | .sha1 => 20
  | .sha256 => 32
  | .sha512 => 64

end Sys2Proof.Machine
end

