-- ==== Sys2Proof/Machine/Flags.lean ====
section
/-! DEFINITION. The flags of the block: `STATUS`, its fields and its W1C write, and the `irq` output (R26 to R31, R57,
R58). No command sets a flag from its arithmetic (R58). -/

namespace Sys2Proof.Machine

/-- R230: the value of `STATUS.ERRCODE`. -/
def ErrCode.code : ErrCode → BitVec 4
  | .noError => 0
  | .invalidSecretLength => 1
  | .invalidSecretAlphabet => 2
  | .invalidDigits => 3
  | .invalidAlgorithm => 4
  | .invalidPeriod => 5
  | .invalidCommand => 6

/-- R54: phase = BUSY. -/
def Engine.running : Engine → Bool
  | .idle => false
  | .busy _ _ _ => true

/-- `STATUS.BUSY` reads 1 exactly when phase = BUSY (R27, R54). -/
def State.busy (s : State) : Bool := s.engine.running

/-- `STATUS.ERR` reads 1 exactly when `STATUS.ERRCODE` is not 0 (R29). -/
def State.err (s : State) : Bool := s.errcode.code != 0

/-- The `STATUS` word of R26: ERRCODE in bits 11:8, WDROP in bit 3, ERR in bit 2, DONE in bit 1, BUSY in bit 0, the
reserved bits 0. -/
def State.statusWord (s : State) : Word :=
  (0 : BitVec 20) ++ s.errcode.code ++ (0 : BitVec 4) ++ BitVec.ofBool s.wdrop ++ BitVec.ofBool s.err ++
    BitVec.ofBool s.done ++ BitVec.ofBool s.busy

/-- The `CTRL` word of R24: IRQ_EN in bit 0, the reserved bits 0. -/
def State.ctrlWord (s : State) : Word := (0 : BitVec 31) ++ BitVec.ofBool s.irqEn

/-- A host write of `CTRL` (R24, R270): data bit 0 goes to IRQ_EN. -/
def State.writeCtrl (s : State) (d : Word) : State := { s with irqEn := d.getLsbD 0 }

/-- A host write of `STATUS` (R26, R270): a 1 in data bit 1 clears DONE, a 1 in data bit 3 clears WDROP, and the RO bits
of the data are ignored. -/
def State.writeStatus (s : State) (d : Word) : State :=
  { s with done := s.done && !d.getLsbD 1, wdrop := s.wdrop && !d.getLsbD 3 }

/-- The level of the `irq` output (R57): DONE and IRQ_EN. -/
def State.irq (s : State) : Bool := s.done && s.irqEn

end Sys2Proof.Machine
end

