-- ==== Sys2Proof/Machine/RegisterMap.lean ====
section
/-! DEFINITION. The register map (R21): names, offsets, access codes and groups, and what each register reads. -/

namespace Sys2Proof.Machine

/-- The 32-bit registers of R21, by name. -/
inductive Reg where
  | id
  | version
  | ctrl
  | cmd
  | status
  | config
  | period
  | secretLen
  | offsetLo
  | offsetHi
  | timeLo
  | timeHi
  | counterLo
  | counterHi
  | keyLen
  | truncOff
  | trunc
  | code
  | otpAscii0
  | otpAscii1
  | digestLen
  | digest (k : Fin 16)
  | secret (k : Fin 64)
  | key (k : Fin 40)
deriving DecidableEq, Repr

/-- R21: the offset of a register in the window. -/
def Reg.offset : Reg → BitVec 12
  | .id => 0x000
  | .version => 0x004
  | .ctrl => 0x008
  | .cmd => 0x00C
  | .status => 0x010
  | .config => 0x014
  | .period => 0x018
  | .secretLen => 0x01C
  | .offsetLo => 0x020
  | .offsetHi => 0x024
  | .timeLo => 0x028
  | .timeHi => 0x02C
  | .counterLo => 0x030
  | .counterHi => 0x034
  | .keyLen => 0x038
  | .truncOff => 0x03C
  | .trunc => 0x040
  | .code => 0x044
  | .otpAscii0 => 0x048
  | .otpAscii1 => 0x04C
  | .digestLen => 0x050
  | .digest k => BitVec.ofNat 12 (0x080 + 4 * k.val)
  | .secret k => BitVec.ofNat 12 (0x100 + 4 * k.val)
  | .key k => BitVec.ofNat 12 (0x200 + 4 * k.val)

/-- R21: the register at the single offsets below 0x054. -/
def scalarRegAt (off : Nat) : Option Reg :=
  match off with
  | 0x000 => some .id
  | 0x004 => some .version
  | 0x008 => some .ctrl
  | 0x00C => some .cmd
  | 0x010 => some .status
  | 0x014 => some .config
  | 0x018 => some .period
  | 0x01C => some .secretLen
  | 0x020 => some .offsetLo
  | 0x024 => some .offsetHi
  | 0x028 => some .timeLo
  | 0x02C => some .timeHi
  | 0x030 => some .counterLo
  | 0x034 => some .counterHi
  | 0x038 => some .keyLen
  | 0x03C => some .truncOff
  | 0x040 => some .trunc
  | 0x044 => some .code
  | 0x048 => some .otpAscii0
  | 0x04C => some .otpAscii1
  | 0x050 => some .digestLen
  | _ => none

/-- R21, R48, R73: the register an offset names; none where the offset is misaligned or reserved. -/
def regAt (off : BitVec 12) : Option Reg :=
  let n := off.toNat
  if n % 4 ≠ 0 then none
  else if n < 0x080 then scalarRegAt n
  else if n < 0x0C0 then some (.digest (Fin.ofNat 16 ((n - 0x080) / 4)))
  else if n < 0x100 then none
  else if n < 0x200 then some (.secret (Fin.ofNat 64 ((n - 0x100) / 4)))
  else if n < 0x2A0 then some (.key (Fin.ofNat 40 ((n - 0x200) / 4)))
  else none

/-- R53: the result group. -/
def Reg.isResult : Reg → Bool
  | .keyLen => true
  | .truncOff => true
  | .trunc => true
  | .code => true
  | .otpAscii0 => true
  | .otpAscii1 => true
  | .digestLen => true
  | .digest _ => true
  | .key _ => true
  | _ => false

/-- R52: the input group, `CMD` among them. -/
def Reg.isInput : Reg → Bool
  | .cmd => true
  | .config => true
  | .period => true
  | .secretLen => true
  | .offsetLo => true
  | .offsetHi => true
  | .timeLo => true
  | .timeHi => true
  | .counterLo => true
  | .counterHi => true
  | .secret _ => true
  | _ => false

/-- The registers a host write leaves alone (R75, R270): `ID`, `VERSION` and the result group. -/
def Reg.isReadOnly (r : Reg) : Bool := r = .id || r = .version || r.isResult

/-- R22: the constant `ID` reads. -/
def idWord : Word := 0x50544F54

/-- R23: the constant `VERSION` reads. -/
def versionWord : Word := 0x00010000

/-- The current value of a register as a host reads it (R75). `CMD` is write-only and reads 0 (R25). -/
def readReg (s : State) : Reg → Word
  | .id => idWord
  | .version => versionWord
  | .ctrl => s.ctrlWord
  | .cmd => 0
  | .status => s.statusWord
  | .config => s.inputs.config
  | .period => s.inputs.period
  | .secretLen => s.inputs.secretLen
  | .offsetLo => s.inputs.offsetLo
  | .offsetHi => s.inputs.offsetHi
  | .timeLo => s.inputs.timeLo
  | .timeHi => s.inputs.timeHi
  | .counterLo => s.inputs.counterLo
  | .counterHi => s.inputs.counterHi
  | .keyLen => s.results.keyLen
  | .truncOff => s.results.truncOff
  | .trunc => s.results.trunc
  | .code => s.results.code
  | .otpAscii0 => s.results.otpAscii0
  | .otpAscii1 => s.results.otpAscii1
  | .digestLen => s.results.digestLen
  | .digest k => s.results.digest[k]
  | .secret k => s.inputs.secret[k]
  | .key k => s.results.key[k]

/-- R32: the bits of a `CONFIG` write that are stored, DIGITS and ALG. -/
def configMask : Word := 0x0000030F

/-- An input register takes a written value (R32 to R37, R45, R270). `CMD` and registers outside the input group are not
stored here. -/
def Inputs.write (inp : Inputs) (r : Reg) (d : Word) : Inputs :=
  match r with
  | .config => { inp with config := d &&& configMask }
  | .period => { inp with period := d }
  | .secretLen => { inp with secretLen := d }
  | .offsetLo => { inp with offsetLo := d }
  | .offsetHi => { inp with offsetHi := d }
  | .timeLo => { inp with timeLo := d }
  | .timeHi => { inp with timeHi := d }
  | .counterLo => { inp with counterLo := d }
  | .counterHi => { inp with counterHi := d }
  | .secret k => { inp with secret := inp.secret.set k d }
  | _ => inp

end Sys2Proof.Machine
end

