-- ==== Sys2Proof/Machine/Ops.lean ====
section
/-! DEFINITION. The operations the commands and the port share: acceptance (R55), completion with its two outcomes
(R56, R231), a host write (R270), a bus access (R70 to R75), one cycle of the port, and reset (R260). The block takes no
exceptions (R242): completion with an error code is the one place where a failure is recorded. -/

namespace Sys2Proof.Machine

/-! ## Acceptance -/

/-- R55: a host write of `d` to `CMD` while idle. R9: the latency is at least 1. -/
def State.accept (s : State) (d : Word) (latency : Nat) : State :=
  { s with
    done := false
    errcode := .noError
    results := Results.zero
    engine := .busy d s.inputs (max latency 1) }

/-! ## Completion -/

/-- What `HOTP` and `TOTP` write into the result group (R157). -/
structure OtpResult where
  /-- The HMAC digest `D`. -/
  digest : List Byte
  /-- `off` (R153). -/
  truncOff : Word
  /-- `v` (R154). -/
  trunc : Word
  /-- `code` (R155). -/
  code : Word
  /-- `OTPCHAR(0..7)` (R156). -/
  chars : List Byte
deriving DecidableEq, Repr

/-- The set `writes` of R56. -/
structure Writes where
  /-- A RawKey for the key buffer and `KEY_LEN` (R120). -/
  key : Option (List Byte) := none
  /-- A value for `COUNTER` (R135). -/
  counter : Option DWord := none
  /-- The digest and OTP registers (R157). -/
  otp : Option OtpResult := none
  /-- The wipe of `CLEAR` (R220). -/
  wipe : Bool := false
deriving DecidableEq, Repr

/-- R120: `KEY_BYTE(i)` and `KEY_LEN`. -/
def State.writeKey (s : State) (k : List Byte) : State :=
  { s with results := { s.results with
      keyLen := BitVec.ofNat 32 k.length
      key := packBuffer 40 k } }

/-- R135: `COUNTER_LO <- c[31:0]`, `COUNTER_HI <- c[63:32]`. -/
def State.writeCounter (s : State) (c : DWord) : State :=
  { s with inputs := { s.inputs with
      counterLo := c.extractLsb' 0 32
      counterHi := c.extractLsb' 32 32 } }

/-- R157: the digest and OTP registers. The key buffer is not written (R46). -/
def State.writeOtp (s : State) (o : OtpResult) : State :=
  { s with results := { s.results with
      truncOff := o.truncOff
      trunc := o.trunc
      code := o.code
      otpAscii0 := packWord o.chars 0
      otpAscii1 := packWord o.chars 1
      digestLen := BitVec.ofNat 32 o.digest.length
      digest := packBuffer 16 o.digest } }

/-- R220: every input register to its reset value, and WDROP to 0. -/
def State.wipeInputs (s : State) : State := { s with inputs := Inputs.reset, wdrop := false }

/-- Apply the writes of a successful command (R56). -/
def State.applyWrites (s : State) (w : Writes) : State :=
  let s := match w.key with
    | some k => s.writeKey k
    | none => s
  let s := match w.counter with
    | some c => s.writeCounter c
    | none => s
  let s := match w.otp with
    | some o => s.writeOtp o
    | none => s
  if w.wipe then s.wipeInputs else s

/-- R56: the end of a completion. ERRCODE takes the outcome, DONE is set, the engine is idle. -/
def State.endCommand (s : State) (e : ErrCode) : State := { s with errcode := e, done := true, engine := .idle }

/-- R56: the completion of a command whose `Execute` answered `outcome`. On an error nothing but ERRCODE, DONE and the
phase changes (R231). -/
def State.finish (s : State) (outcome : Except ErrCode Writes) : State :=
  match outcome with
  | .ok w => (s.applyWrites w).endCommand .noError
  | .error e => s.endCommand e

/-- R56: the completion step of a command with this `Execute`, from the snapshot of the running command. -/
def complete (execute : Inputs → Except ErrCode Writes) (s : State) : Host.Outcome State Fault Refusal :=
  match s.engine with
  | .idle => .refused .noCommandRunning
  | .busy _ snap _ => .next (s.finish (execute snap))

/-! ## Host accesses -/

/-- R270: a host write to a mapped register. `latency` is used if it starts a command. -/
def State.hostWrite (s : State) (r : Reg) (d : Word) (latency : Nat) : State :=
  if r.isReadOnly then s
  else match r with
    | .ctrl => s.writeCtrl d
    | .status => s.writeStatus d
    | .cmd => if s.busy then { s with wdrop := true } else s.accept d latency
    | r => if s.busy then { s with wdrop := true } else { s with inputs := s.inputs.write r d }

/-- The block answers a host access. -/
def State.withReply (s : State) (r : BusReply) : State := { s with reply := some r }

/-- The register an access reaches: none where it is not 4 bytes wide (R71), misaligned (R73) or reserved (R74). -/
def Access.reg (a : Access) : Option Reg := if a.size = 4 then regAt a.off else none

/-- R70 to R75: the block serves one host access. A write that does not enable all four lanes gets ERROR (R71). -/
def State.serve (s : State) (a : Access) (latency : Nat) : State :=
  match a.reg, a.kind with
  | none, .read => s.withReply (.read 0 .error)
  | none, .write _ _ => s.withReply (.write .error)
  | some r, .read => s.withReply (.read (readReg s r) .okay)
  | some r, .write d strobes =>
    if strobes = 0b1111 then (s.hostWrite r d latency).withReply (.write .okay) else s.withReply (.write .error)

/-- `off = addr - BASE` (R70); an address outside the window does not reach the block. -/
def windowOffset (addr : Nat) : Option (BitVec 12) :=
  if Config.base ≤ addr ∧ addr < Config.base + Config.windowBytes then some (BitVec.ofNat 12 (addr - Config.base))
  else none

/-- `MemRead(addr, 4)`: the access it makes at the block's port. R12 calls it the read of `BASE + addr`, R70 writes it
`Read(addr - BASE)`; the two differ on what `addr` is, and no ruling settles it. DESIGN CHOICE: `addr` is a bus address, as
in R70 (log entry 18). -/
def memRead (addr : Nat) : Option Access := (windowOffset addr).map fun off => ⟨off, 4, .read⟩

/-- `MemWrite(addr, 4, v)`: the access it makes at the block's port. DESIGN CHOICE: `addr` is a bus address, as in R70,
where R12 writes to `BASE + addr` (log entry 18). -/
def memWrite (addr : Nat) (v : Word) : Option Access := (windowOffset addr).map fun off => ⟨off, 4, .write v 0b1111⟩

/-! ## Clock cycles and reset -/

/-- The schedule that is left. -/
def State.withPending (s : State) (es : List Event) : State := { s with pending := es }

/-- R54: one clock cycle of a running command passes. -/
def Engine.tick : Engine → Engine
  | .idle => .idle
  | .busy op snap lat => .busy op snap (lat - 1)

/-- One clock cycle of a running command passes. -/
def State.tick (s : State) : State := { s with engine := s.engine.tick }

/-- R54, R56: the command word whose completion is due in this cycle, if one is. -/
def Engine.due : Engine → Option Word
  | .idle => none
  | .busy op _ lat => if lat ≤ 1 then some op else none

/-- R260: every piece of state holds its reset value while `rst` is asserted. -/
def heldInReset (es : List Event) : State := { State.reset with rst := true, pending := es }

/-- R260, R262: the block once `rst` is released. -/
def releasedFromReset (es : List Event) : State := { State.reset with pending := es }

/-- One cycle of the port while `rst` is not asserted: what arrives next is served (R84). A reset abandons a running
command (R261). -/
def State.portCycle (s : State) : State :=
  match s.pending with
  | [] => s
  | .quiet :: es => s.withPending es
  | .access a latency :: es => (s.withPending es).serve a latency
  | .rst true :: es => heldInReset es
  | .rst false :: es => s.withPending es

/-- One cycle while `rst` is asserted (R260, R263): the state is held, and a host access has no step. -/
def State.resetCycle (s : State) : Host.Outcome State Fault Refusal :=
  match s.pending with
  | [] => .next (heldInReset [])
  | .quiet :: es => .next (heldInReset es)
  | .access _ _ :: _ => .refused .accessDuringReset
  | .rst true :: es => .next (heldInReset es)
  | .rst false :: es => .next (releasedFromReset es)

/-- The state in which the engine is about to complete command word `op`: `op` has just been accepted and its completion
is due (R55, R56). -/
def State.startCommand (s : State) (op : Word) : State := { s with rst := false }.accept op 1

end Sys2Proof.Machine
end

