-- ==== Sys2Proof/Machine/Control.lean ====
section
/-! DEFINITION. `CLEAR` and the invalid command (44_control.md). -/

namespace Sys2Proof.Machine

/-- `ExecCLEAR(snap)` (R220): the snapshot is not read, and it always succeeds. -/
def executeClear (_inp : Inputs) : Except ErrCode Writes := .ok { wipe := true }

/-- `CLEAR` (R220). -/
def execClear (s : State) : Host.Outcome State Fault Refusal := complete executeClear s

/-- `ExecINVALID(snap)` (R221): the same for every invalid word. -/
def executeInvalid (_word : Word) (_inp : Inputs) : Except ErrCode Writes := .error .invalidCommand

/-- An invalid command word (R221). -/
def execInvalid (word : Word) (s : State) : Host.Outcome State Fault Refusal := complete (executeInvalid word) s

end Sys2Proof.Machine
end

