-- ==== Sys2Proof/Machine/Base32.lean ====
section
/-! DEFINITION. Secret validation, the Base32 decoder and `DECODE` (40_base32.md). -/

namespace Sys2Proof.Machine

/-- R110: the 5-bit value of a Base32 symbol; none outside the alphabet. -/
def b32val (c : Byte) : Option (BitVec 5) :=
  if 0x41 ≤ c ∧ c ≤ 0x5A then some ((c - 0x41).setWidth 5)
  else if 0x61 ≤ c ∧ c ≤ 0x7A then some ((c - 0x61).setWidth 5)
  else if 0x32 ≤ c ∧ c ≤ 0x37 then some ((c - 0x32 + 26).setWidth 5)
  else none

/-- R111: the legal secret lengths. -/
def legalLength (n : Nat) : Bool :=
  decide (Config.minSecretChars ≤ n) && decide (n ≤ Config.maxSecretChars) && decide (n % Config.secretMultiple = 0)

/-- R112: every one of the first SECRET_LEN characters is in the alphabet. -/
def legalAlphabet (inp : Inputs) : Bool := inp.secretChars.all fun c => (b32val c).isSome

/-- V1, secret length (R111). -/
def checkLength (inp : Inputs) : Except ErrCode Unit :=
  if legalLength inp.length then .ok () else .error .invalidSecretLength

/-- V2, secret alphabet (R112). It runs only when V1 has passed (R113). -/
def checkAlphabet (inp : Inputs) : Except ErrCode Unit :=
  if legalAlphabet inp then .ok () else .error .invalidSecretAlphabet

/-- The decoder's state in R115: the bit accumulator, at most 12 bits wide, the number of valid bits in it, and the bytes
emitted so far. -/
structure Decoder where
  acc : BitVec 12
  nacc : Nat
  out : List Byte
deriving DecidableEq, Repr

/-- R115: one symbol. -/
def Decoder.symbol (d : Decoder) (v : BitVec 5) : Decoder :=
  let acc := (d.acc <<< 5) ||| v.setWidth 12
  let nacc := d.nacc + 5
  if 8 ≤ nacc then
    { acc := acc &&& ((1 <<< (nacc - 8)) - 1)
      nacc := nacc - 8
      out := d.out ++ [(acc >>> (nacc - 8)).setWidth 8] }
  else { d with acc := acc, nacc := nacc }

/-- The decoder before the first symbol (R115). -/
def decoderStart : Decoder := ⟨0, 0, []⟩

/-- R115: decode characters left to right; bits that do not complete a byte are discarded. -/
def decodeChars (chars : List Byte) : List Byte :=
  (chars.foldl (fun (d : Decoder) c => d.symbol ((b32val c).getD 0)) decoderStart).out

/-- `DecodeSecret(snap)` (R115). -/
def decodeSecret (inp : Inputs) : List Byte := decodeChars inp.secretChars

/-- `ExecDECODE(snap)` (R120). -/
def executeDecode (inp : Inputs) : Except ErrCode Writes := do
  checkLength inp
  checkAlphabet inp
  .ok { key := some (decodeSecret inp) }

/-- `DECODE` (R120). -/
def execDecode (s : State) : Host.Outcome State Fault Refusal := complete executeDecode s

end Sys2Proof.Machine
end

