-- ==== Sys2Proof/Machine/Counter.lean ====
section
/-! DEFINITION. The time-step counter and `COUNTER` (41_counter.md). -/

namespace Sys2Proof.Machine

/-- V5, period (R132). -/
def checkPeriod (inp : Inputs) : Except ErrCode Unit :=
  if inp.periodSeconds = 0 then .error .invalidPeriod else .ok ()

/-- `q` (R131): unsigned 64-by-32 division. -/
def elapsedPeriods (inp : Inputs) : Nat := inp.time.toNat / inp.periodSeconds

/-- `c` (R133): the exact integer sum of the signed offset and the quotient, reduced mod 2^64 (R134). -/
def timeCounter (inp : Inputs) : DWord := BitVec.ofInt 64 (inp.offset.toInt + (elapsedPeriods inp : Int))

/-- `ExecCOUNTER(snap)` (R135). -/
def executeCounter (inp : Inputs) : Except ErrCode Writes := do
  checkPeriod inp
  .ok { counter := some (timeCounter inp) }

/-- `COUNTER` (R135). -/
def execCounter (s : State) : Host.Outcome State Fault Refusal := complete executeCounter s

end Sys2Proof.Machine
end

