-- ==== Sys2Proof/Machine/Hash.lean ====
section
/-! DEFINITION. SHA-1, SHA-256, SHA-512 and HMAC (43_hash.md). -/

namespace Sys2Proof.Machine

/-! ## Common structure (R180 to R183) -/

/-- `Pad(M)` (R182) for block size `block` and a length field of `lenField` bytes: the zero bytes are the fewest that
make the length a multiple of `block`. -/
def hashPad (block lenField : Nat) (m : List Byte) : List Byte :=
  m ++ [0x80] ++ List.replicate ((block - (m.length + 1 + lenField) % block) % block) 0x00 ++
    beBytes lenField (8 * m.length)

/-- R183: a padded message split into blocks. -/
def hashBlocks (block : Nat) (m : List Byte) : List (List Byte) :=
  (List.range (m.length / block)).map fun k => (m.drop (k * block)).take block

/-- R180, R183: a block read as 16 big-endian words of `w` bits. -/
def blockWords (w : Nat) (b : List Byte) : List (BitVec w) :=
  (List.range 16).map fun j => BitVec.ofNat w (beNat ((b.drop (j * (w / 8))).take (w / 8)))

/-- A message schedule, newest word first: `n` more words, each made from those before it. Entry `i` of the list is
W_(t-1-i) when W_t is made. -/
def extendSchedule {w : Nat} (next : List (BitVec w) → BitVec w) : Nat → List (BitVec w) → List (BitVec w)
  | 0, ws => ws
  | n + 1, ws => extendSchedule next n (next ws :: ws)

/-- R180: words written out big-endian. -/
def wordsToBytes {w : Nat} (ws : List (BitVec w)) : List Byte := ws.flatMap fun x => beBytes (w / 8) x.toNat

/-! ## SHA-1 (R184 to R186) -/

/-- The five state words of SHA-1, or its five working variables. -/
structure Sha1State where
  a : BitVec 32
  b : BitVec 32
  c : BitVec 32
  d : BitVec 32
  e : BitVec 32
deriving DecidableEq, Repr

/-- R184: the SHA-1 initial state. -/
def sha1Initial : Sha1State := ⟨0x67452301, 0xEFCDAB89, 0x98BADCFE, 0x10325476, 0xC3D2E1F0⟩

/-- R185: `f_t(b, c, d)`. -/
def sha1F (t : Nat) (b c d : BitVec 32) : BitVec 32 :=
  if t < 20 then (b &&& c) ||| (~~~b &&& d)
  else if t < 40 then b ^^^ c ^^^ d
  else if t < 60 then (b &&& c) ||| (b &&& d) ||| (c &&& d)
  else b ^^^ c ^^^ d

/-- R185: `K_t`. -/
def sha1K (t : Nat) : BitVec 32 :=
  if t < 20 then 0x5A827999
  else if t < 40 then 0x6ED9EBA1
  else if t < 60 then 0x8F1BBCDC
  else 0xCA62C1D6

/-- R186: W_t from W_(t-3), W_(t-8), W_(t-14) and W_(t-16). -/
def sha1Word (ws : List (BitVec 32)) : BitVec 32 :=
  (ws.getD 2 0 ^^^ ws.getD 7 0 ^^^ ws.getD 13 0 ^^^ ws.getD 15 0).rotateLeft 1

/-- R186: W_0..W_79. -/
def sha1Schedule (ws : List (BitVec 32)) : List (BitVec 32) := (extendSchedule sha1Word 64 ws.reverse).reverse

/-- R186: round `t` with word W_t. -/
def sha1Round (s : Sha1State) (tw : Nat × BitVec 32) : Sha1State :=
  { a := s.a.rotateLeft 5 + sha1F tw.1 s.b s.c s.d + s.e + sha1K tw.1 + tw.2
    b := s.a
    c := s.b.rotateLeft 30
    d := s.c
    e := s.d }

/-- R186: compression of one block. -/
def sha1Compress (h : Sha1State) (ws : List (BitVec 32)) : Sha1State :=
  let r := ((List.range 80).zip (sha1Schedule ws)).foldl sha1Round h
  ⟨h.a + r.a, h.b + r.b, h.c + r.c, h.d + r.d, h.e + r.e⟩

/-- SHA-1 (R186). -/
def sha1Digest (m : List Byte) : List Byte :=
  let h := ((hashBlocks 64 (hashPad 64 8 m)).map (blockWords 32)).foldl sha1Compress sha1Initial
  wordsToBytes [h.a, h.b, h.c, h.d, h.e]

/-! ## SHA-256 and SHA-512 (R187 to R194) -/

/-- R187: the SHA-256 initial state H0..H7. -/
def sha256Initial : List (BitVec 32) :=
  [0x6A09E667, 0xBB67AE85, 0x3C6EF372, 0xA54FF53A,
    0x510E527F, 0x9B05688C, 0x1F83D9AB, 0x5BE0CD19]

/-- R188: the SHA-256 round constants K_0..K_63. -/
def sha256Constants : List (BitVec 32) :=
  [0x428A2F98, 0x71374491, 0xB5C0FBCF, 0xE9B5DBA5,
    0x3956C25B, 0x59F111F1, 0x923F82A4, 0xAB1C5ED5,
    0xD807AA98, 0x12835B01, 0x243185BE, 0x550C7DC3,
    0x72BE5D74, 0x80DEB1FE, 0x9BDC06A7, 0xC19BF174] ++
  [0xE49B69C1, 0xEFBE4786, 0x0FC19DC6, 0x240CA1CC,
    0x2DE92C6F, 0x4A7484AA, 0x5CB0A9DC, 0x76F988DA,
    0x983E5152, 0xA831C66D, 0xB00327C8, 0xBF597FC7,
    0xC6E00BF3, 0xD5A79147, 0x06CA6351, 0x14292967] ++
  [0x27B70A85, 0x2E1B2138, 0x4D2C6DFC, 0x53380D13,
    0x650A7354, 0x766A0ABB, 0x81C2C92E, 0x92722C85,
    0xA2BFE8A1, 0xA81A664B, 0xC24B8B70, 0xC76C51A3,
    0xD192E819, 0xD6990624, 0xF40E3585, 0x106AA070] ++
  [0x19A4C116, 0x1E376C08, 0x2748774C, 0x34B0BCB5,
    0x391C0CB3, 0x4ED8AA4A, 0x5B9CCA4F, 0x682E6FF3,
    0x748F82EE, 0x78A5636F, 0x84C87814, 0x8CC70208,
    0x90BEFFFA, 0xA4506CEB, 0xBEF9A3F7, 0xC67178F2]

/-- R191: the SHA-512 initial state H0..H7. -/
def sha512Initial : List (BitVec 64) :=
  [0x6A09E667F3BCC908, 0xBB67AE8584CAA73B, 0x3C6EF372FE94F82B, 0xA54FF53A5F1D36F1,
    0x510E527FADE682D1, 0x9B05688C2B3E6C1F, 0x1F83D9ABFB41BD6B, 0x5BE0CD19137E2179]

/-- R192: the SHA-512 round constants K_0..K_79. -/
def sha512Constants : List (BitVec 64) :=
  [0x428A2F98D728AE22, 0x7137449123EF65CD, 0xB5C0FBCFEC4D3B2F, 0xE9B5DBA58189DBBC,
    0x3956C25BF348B538, 0x59F111F1B605D019, 0x923F82A4AF194F9B, 0xAB1C5ED5DA6D8118,
    0xD807AA98A3030242, 0x12835B0145706FBE, 0x243185BE4EE4B28C, 0x550C7DC3D5FFB4E2,
    0x72BE5D74F27B896F, 0x80DEB1FE3B1696B1, 0x9BDC06A725C71235, 0xC19BF174CF692694] ++
  [0xE49B69C19EF14AD2, 0xEFBE4786384F25E3, 0x0FC19DC68B8CD5B5, 0x240CA1CC77AC9C65,
    0x2DE92C6F592B0275, 0x4A7484AA6EA6E483, 0x5CB0A9DCBD41FBD4, 0x76F988DA831153B5,
    0x983E5152EE66DFAB, 0xA831C66D2DB43210, 0xB00327C898FB213F, 0xBF597FC7BEEF0EE4,
    0xC6E00BF33DA88FC2, 0xD5A79147930AA725, 0x06CA6351E003826F, 0x142929670A0E6E70] ++
  [0x27B70A8546D22FFC, 0x2E1B21385C26C926, 0x4D2C6DFC5AC42AED, 0x53380D139D95B3DF,
    0x650A73548BAF63DE, 0x766A0ABB3C77B2A8, 0x81C2C92E47EDAEE6, 0x92722C851482353B,
    0xA2BFE8A14CF10364, 0xA81A664BBC423001, 0xC24B8B70D0F89791, 0xC76C51A30654BE30,
    0xD192E819D6EF5218, 0xD69906245565A910, 0xF40E35855771202A, 0x106AA07032BBD1B8] ++
  [0x19A4C116B8D2D0C8, 0x1E376C085141AB53, 0x2748774CDF8EEB99, 0x34B0BCB5E19B48A8,
    0x391C0CB3C5C95A63, 0x4ED8AA4AE3418ACB, 0x5B9CCA4F7763E373, 0x682E6FF3D6B2B8A3,
    0x748F82EE5DEFB2FC, 0x78A5636F43172F60, 0x84C87814A1F0AB72, 0x8CC702081A6439EC,
    0x90BEFFFA23631E28, 0xA4506CEBDE82BDE9, 0xBEF9A3F7B2C67915, 0xC67178F2E372532B] ++
  [0xCA273ECEEA26619C, 0xD186B8C721C0C207, 0xEADA7DD6CDE0EB1E, 0xF57D4F7FEE6ED178,
    0x06F067AA72176FBA, 0x0A637DC5A2C898A6, 0x113F9804BEF90DAE, 0x1B710B35131C471B,
    0x28DB77F523047D84, 0x32CAAB7B40C72493, 0x3C9EBE0A15C9BEBC, 0x431D67C49C100D4C,
    0x4CC5D4BECB3E42B6, 0x597F299CFC657E2A, 0x5FCB6FAB3AD6FAEC, 0x6C44198C4A475817]

/-- The eight state words H0..H7, or the eight working variables a..h. -/
structure Sha2State (w : Nat) where
  a : BitVec w
  b : BitVec w
  c : BitVec w
  d : BitVec w
  e : BitVec w
  f : BitVec w
  g : BitVec w
  h : BitVec w
deriving DecidableEq, Repr

/-- The state whose words are the entries of a list of eight. -/
def Sha2State.ofList {w : Nat} (ws : List (BitVec w)) : Sha2State w :=
  ⟨ws.getD 0 0, ws.getD 1 0, ws.getD 2 0, ws.getD 3 0, ws.getD 4 0, ws.getD 5 0, ws.getD 6 0, ws.getD 7 0⟩

/-- H0..H7 in order. -/
def Sha2State.words {w : Nat} (s : Sha2State w) : List (BitVec w) := [s.a, s.b, s.c, s.d, s.e, s.f, s.g, s.h]

/-- Word-wise addition mod 2^w (R183). -/
def Sha2State.add {w : Nat} (s r : Sha2State w) : Sha2State w :=
  ⟨s.a + r.a, s.b + r.b, s.c + r.c, s.d + r.d, s.e + r.e, s.f + r.f, s.g + r.g, s.h + r.h⟩

/-- What differs between SHA-256 and SHA-512 (R194): the four functions, the round constants and the initial state. -/
structure Sha2 (w : Nat) where
  bigSigma0 : BitVec w → BitVec w
  bigSigma1 : BitVec w → BitVec w
  smallSigma0 : BitVec w → BitVec w
  smallSigma1 : BitVec w → BitVec w
  constants : List (BitVec w)
  start : Sha2State w

/-- R189: `Ch`. -/
def sha2Ch {w : Nat} (x y z : BitVec w) : BitVec w := (x &&& y) ^^^ (~~~x &&& z)

/-- R189: `Maj`. -/
def sha2Maj {w : Nat} (x y z : BitVec w) : BitVec w := (x &&& y) ^^^ (x &&& z) ^^^ (y &&& z)

/-- R190: W_t from W_(t-2), W_(t-7), W_(t-15) and W_(t-16). -/
def Sha2.word {w : Nat} (p : Sha2 w) (ws : List (BitVec w)) : BitVec w :=
  p.smallSigma1 (ws.getD 1 0) + ws.getD 6 0 + p.smallSigma0 (ws.getD 14 0) + ws.getD 15 0

/-- R190, R194: the message schedule, one word per round. -/
def Sha2.schedule {w : Nat} (p : Sha2 w) (ws : List (BitVec w)) : List (BitVec w) :=
  (extendSchedule p.word (p.constants.length - 16) ws.reverse).reverse

/-- R190: one round, with K_t and W_t. -/
def Sha2.round {w : Nat} (p : Sha2 w) (s : Sha2State w) (kw : BitVec w × BitVec w) : Sha2State w :=
  let t1 := s.h + p.bigSigma1 s.e + sha2Ch s.e s.f s.g + kw.1 + kw.2
  let t2 := p.bigSigma0 s.a + sha2Maj s.a s.b s.c
  { a := t1 + t2, b := s.a, c := s.b, d := s.c, e := s.d + t1, f := s.e, g := s.f, h := s.g }

/-- R190: compression of one block. -/
def Sha2.compress {w : Nat} (p : Sha2 w) (h : Sha2State w) (ws : List (BitVec w)) : Sha2State w :=
  h.add ((p.constants.zip (p.schedule ws)).foldl p.round h)

/-- R187 to R190: SHA-256. -/
def sha256Params : Sha2 32 where
  bigSigma0 x := x.rotateRight 2 ^^^ x.rotateRight 13 ^^^ x.rotateRight 22
  bigSigma1 x := x.rotateRight 6 ^^^ x.rotateRight 11 ^^^ x.rotateRight 25
  smallSigma0 x := x.rotateRight 7 ^^^ x.rotateRight 18 ^^^ (x >>> 3)
  smallSigma1 x := x.rotateRight 17 ^^^ x.rotateRight 19 ^^^ (x >>> 10)
  constants := sha256Constants
  start := Sha2State.ofList sha256Initial

/-- R191 to R194: SHA-512. -/
def sha512Params : Sha2 64 where
  bigSigma0 x := x.rotateRight 28 ^^^ x.rotateRight 34 ^^^ x.rotateRight 39
  bigSigma1 x := x.rotateRight 14 ^^^ x.rotateRight 18 ^^^ x.rotateRight 41
  smallSigma0 x := x.rotateRight 1 ^^^ x.rotateRight 8 ^^^ (x >>> 7)
  smallSigma1 x := x.rotateRight 19 ^^^ x.rotateRight 61 ^^^ (x >>> 6)
  constants := sha512Constants
  start := Sha2State.ofList sha512Initial

/-- SHA-256 (R190). -/
def sha256Digest (m : List Byte) : List Byte :=
  wordsToBytes
    (((hashBlocks 64 (hashPad 64 8 m)).map (blockWords 32)).foldl sha256Params.compress sha256Params.start).words

/-- SHA-512 (R194), with the 16-byte length field of R182. -/
def sha512Digest (m : List Byte) : List Byte :=
  wordsToBytes
    (((hashBlocks 128 (hashPad 128 16 m)).map (blockWords 64)).foldl sha512Params.compress sha512Params.start).words

/-! ## HMAC (R200, R201) -/

/-- R96: the hash function an algorithm names. -/
def Alg.hash : Alg → List Byte → List Byte
  | .sha1 => sha1Digest
  | .sha256 => sha256Digest
  | .sha512 => sha512Digest

/-- `K0` (R201): a key no longer than the block is zero-padded; a longer one is hashed first. -/
def hmacKey (alg : Alg) (key : List Byte) : List Byte :=
  let k := if key.length ≤ alg.blockBytes then key else alg.hash key
  k ++ List.replicate (alg.blockBytes - k.length) 0x00

/-- R200: `K0 ^ [pad] * B`. -/
def xorPad (pad : Byte) (bytes : List Byte) : List Byte := bytes.map fun b => b ^^^ pad

/-- `HMAC_H(K, m)` (R200). -/
def hmac (alg : Alg) (key m : List Byte) : List Byte :=
  let k0 := hmacKey alg key
  alg.hash (xorPad 0x5C k0 ++ alg.hash (xorPad 0x36 k0 ++ m))

end Sys2Proof.Machine
end

