-- ==== Sys2Proof/Machine/Otp.lean ====
section
/-! DEFINITION. Dynamic truncation, decimal formatting, and `HOTP` and `TOTP` (42_otp.md). -/

namespace Sys2Proof.Machine

/-- V3, digits (R160). -/
def checkDigits (inp : Inputs) : Except ErrCode Unit :=
  if inp.digits = 6 ∨ inp.digits = 7 ∨ inp.digits = 8 then .ok () else .error .invalidDigits

/-- V4, algorithm (R161), with the algorithm it lets through. -/
def checkAlgorithm (inp : Inputs) : Except ErrCode Alg :=
  match Alg.ofField inp.algField with
  | some alg => .ok alg
  | none => .error .invalidAlgorithm

/-- `off` (R153): the low 4 bits of the digest's last byte. -/
def truncationOffset (d : List Byte) : Nat := (d.getD (d.length - 1) 0 &&& 0x0F).toNat

/-- `v` (R154): the 4-byte window at `off` read big-endian, with bit 7 of its first byte masked. -/
def truncatedValue (d : List Byte) : Word :=
  let off := truncationOffset d
  ((d.getD off 0 &&& 0x7F).setWidth 32 <<< 24) ||| ((d.getD (off + 1) 0).setWidth 32 <<< 16) |||
    ((d.getD (off + 2) 0).setWidth 32 <<< 8) ||| (d.getD (off + 3) 0).setWidth 32

/-- `code` (R155). -/
def otpCode (d : List Byte) (digits : Nat) : Nat := (truncatedValue d).toNat % 10 ^ digits

/-- `OTPCHAR(i)` (R156). -/
def otpChar (code digits i : Nat) : Byte :=
  if i < digits then BitVec.ofNat 8 (0x30 + code / 10 ^ (digits - 1 - i) % 10) else 0x00

/-- `OTPCore(snap, c)` (R157) for the algorithm V4 let through. -/
def otpCore (inp : Inputs) (alg : Alg) (c : DWord) : OtpResult :=
  let d := hmac alg (decodeSecret inp) (be64 c)
  let code := otpCode d inp.digits
  { digest := d
    truncOff := BitVec.ofNat 32 (truncationOffset d)
    trunc := truncatedValue d
    code := BitVec.ofNat 32 code
    chars := (List.range 8).map (otpChar code inp.digits) }

/-- V1, V2, V3 and V4 in order (R162), the checks `HOTP` and `TOTP` share. -/
def checkOtpInputs (inp : Inputs) : Except ErrCode Alg := do
  checkLength inp
  checkAlphabet inp
  checkDigits inp
  checkAlgorithm inp

/-- `ExecHOTP(snap)` (R164): `COUNTER` is not written. -/
def executeHotp (inp : Inputs) : Except ErrCode Writes := do
  let alg ← checkOtpInputs inp
  .ok { otp := some (otpCore inp alg inp.counter) }

/-- `ExecTOTP(snap)` (R165): V5 comes last (R162). -/
def executeTotp (inp : Inputs) : Except ErrCode Writes := do
  let alg ← checkOtpInputs inp
  checkPeriod inp
  .ok { counter := some (timeCounter inp), otp := some (otpCore inp alg (timeCounter inp)) }

/-- `HOTP` (R164). -/
def execHotp (s : State) : Host.Outcome State Fault Refusal := complete executeHotp s

/-- `TOTP` (R165). -/
def execTotp (s : State) : Host.Outcome State Fault Refusal := complete executeTotp s

end Sys2Proof.Machine
end

