-- ==== Sys2Proof/Machine/Step.lean ====
section
/-! DEFINITION. One step of the block: one clock cycle, in which at most one thing happens (R7). -/

namespace Sys2Proof.Machine

/-- One step. While `rst` is asserted the block is held in reset (R260). Otherwise, a completion that is due comes first
(R241) and runs the accepted command word (R56, R95); else a cycle of a running command passes and the port serves what
arrives next (R84). -/
def step (s : State) : Host.Outcome State Fault Refusal :=
  if s.rst then s.resetCycle
  else match s.engine.due with
    | some op => exec (decodeWord op) s
    | none => .next s.tick.portCycle

/-- `s` with the command word of the low `nbits` bits of `w` accepted and due, so that the next step runs it. -/
def State.withFetchWord (s : State) (nbits w : Nat) : State := s.startCommand (BitVec.ofNat 32 (w % 2 ^ nbits))

end Sys2Proof.Machine
end

