-- ==== Sys2Proof/Safety.lean ====
section
/-! DEFINITION. What claims are stated in: frames and completions of commands, the invariant every step keeps, and the
runs in which no step is refused. -/

namespace Sys2Proof.Machine

/-- `Execute(op, snap)` of R95: outcome and writes as a function of the command and the snapshot alone. -/
def execute : Instr → Inputs → Except ErrCode Writes
  | .decode => executeDecode
  | .counter => executeCounter
  | .hotp => executeHotp
  | .totp => executeTotp
  | .clear => executeClear
  | .invalid w => executeInvalid w

/-! ## Frames -/

/-- What a step leaves alone: every register the host can read except those `changed` names, and the port. -/
structure Frame (changed : Reg → Bool) (s t : State) : Prop where
  regs : ∀ r, changed r = false → readReg t r = readReg s r
  rst : t.rst = s.rst
  pending : t.pending = s.pending
  reply : t.reply = s.reply

/-- A command ended with error code `e` (R56): DONE and ERRCODE are written, WDROP is not, the engine is idle, and no
register changes except `STATUS` and those `changed` names. -/
structure Completed (e : ErrCode) (changed : Reg → Bool) (s t : State) : Prop where
  frame : Frame (fun r => r == .status || changed r) s t
  done : t.done = true
  errcode : t.errcode = e
  wdrop : t.wdrop = s.wdrop
  engine : t.engine = .idle

/-- No register (R231). -/
def noReg (_ : Reg) : Bool := false

/-- What `DECODE` writes (R92). -/
def Reg.isKeyResult : Reg → Bool
  | .keyLen => true
  | .key _ => true
  | _ => false

/-- `COUNTER_LO` and `COUNTER_HI`. -/
def Reg.isCounter : Reg → Bool
  | .counterLo => true
  | .counterHi => true
  | _ => false

/-- What `HOTP` writes, and `TOTP` beside `COUNTER` (R92): the result group less the key buffer and `KEY_LEN`. -/
def Reg.isOtpResult (r : Reg) : Bool := r.isResult && !r.isKeyResult

/-! ## What arrives in a step -/

/-- `Write(off(r), d)` of R97: a full-word write. -/
def writeTo (r : Reg) (d : Word) : Access := ⟨r.offset, 4, .write d 0b1111⟩

/-- `Read(off(r))` of R97. -/
def readOf (r : Reg) : Access := ⟨r.offset, 4, .read⟩

/-- The host access, with its latency, that the next step serves: none in reset, when a completion is due, or when none
arrives. -/
def State.served (s : State) : Option (Access × Nat) :=
  if s.rst || s.engine.due.isSome then none
  else match s.pending with
    | .access a latency :: _ => some (a, latency)
    | _ => none

/-- The next step is a completion (R56). -/
def State.completing (s : State) : Prop := s.rst = false ∧ s.engine.due ≠ none

/-- The next step puts the block into reset, holds it there or releases it (R260). -/
def State.resetting (s : State) : Prop :=
  s.rst = true ∨ (s.engine.due = none ∧ s.pending.head? = some (.rst true))

/-- The next step is the acceptance of a command (R55). -/
def State.accepting (s : State) : Prop := s.busy = false ∧ ∃ d latency, s.served = some (writeTo .cmd d, latency)

/-- The state in which the access at the head of the schedule has been answered and has done nothing else. -/
def State.answered (s : State) (r : BusReply) : State := { s.tick with pending := s.pending.tail, reply := some r }

/-- R48: the reserved offsets 0x054..0x07C, 0x0C0..0x0FC and 0x2A0..0xFFC. -/
def reservedOffset (off : BitVec 12) : Prop :=
  (0x054 ≤ off.toNat ∧ off.toNat < 0x080) ∨ (0x0C0 ≤ off.toNat ∧ off.toNat < 0x100) ∨ 0x2A0 ≤ off.toNat

/-- An access the bus refuses: not 4 bytes wide or with a lane disabled (R71), misaligned (R73) or reserved (R74). -/
def Access.refusedByBus (a : Access) : Prop :=
  a.size ≠ 4 ∨ a.off.toNat % 4 ≠ 0 ∨ reservedOffset a.off ∨ ∃ d strobes, a.kind = .write d strobes ∧ strobes ≠ 0b1111

/-- The ERROR answer to an access; a read has data 0 (R73, R74). -/
def Access.errorReply (a : Access) : BusReply :=
  match a.kind with
  | .read => .read 0 .error
  | .write _ _ => .write .error

/-- Byte `i` of the OTP character buffer as a host reads it (R42, R44). -/
def otpCharByte (t : State) (i : Nat) : Byte :=
  if i < 4 then lane (readReg t .otpAscii0) i else lane (readReg t .otpAscii1) (i - 4)

/-- The digest and OTP registers of `t` show the computation of R150 to R156 for counter `c`. -/
structure OtpShown (inp : Inputs) (alg : Alg) (c : DWord) (t : State) : Prop where
  digest : ∀ (k : Fin 16) (j : Nat), j < 4 →
    lane (readReg t (.digest k)) j = (hmac alg (decodeSecret inp) (be64 c)).getD (4 * k.val + j) 0
  digestLen : readReg t .digestLen = BitVec.ofNat 32 alg.digestLen
  truncOff : readReg t .truncOff = BitVec.ofNat 32 (truncationOffset (hmac alg (decodeSecret inp) (be64 c)))
  trunc : readReg t .trunc = truncatedValue (hmac alg (decodeSecret inp) (be64 c))
  code : readReg t .code = BitVec.ofNat 32 (otpCode (hmac alg (decodeSecret inp) (be64 c)) inp.digits)
  chars : ∀ i, i < 8 → otpCharByte t i = otpChar (otpCode (hmac alg (decodeSecret inp) (be64 c)) inp.digits) inp.digits i

/-- The host's view of a command from a state that is not in reset: accept word `op`, then run its completion (R55,
R56). -/
def State.runCommand (s : State) (op : Word) : Host.Outcome State Fault Refusal :=
  exec (decodeWord op) (s.startCommand op)

/-- The primes up to 409 in order, the primes of R188 and R192, by trial division. -/
def primesTo409 : List Nat := (List.range 410).filter fun n => 2 ≤ n && (List.range n).all fun d => d < 2 || n % d != 0

/-! ## The checks of R92, as propositions on the snapshot -/

/-- V1 holds (R111). -/
def Inputs.V1 (inp : Inputs) : Prop := 16 ≤ inp.length ∧ inp.length ≤ 256 ∧ inp.length % 8 = 0

/-- V2 holds (R112). -/
def Inputs.V2 (inp : Inputs) : Prop := ∀ i, i < inp.length → b32val (inp.secretByte i) ≠ none

/-- V3 holds (R160). -/
def Inputs.V3 (inp : Inputs) : Prop := inp.digits = 6 ∨ inp.digits = 7 ∨ inp.digits = 8

/-- V4 holds (R161), and selects `alg` (R96). -/
def Inputs.V4 (inp : Inputs) (alg : Alg) : Prop := Alg.ofField inp.algField = some alg

/-- V5 holds (R132). -/
def Inputs.V5 (inp : Inputs) : Prop := inp.period ≠ 0

/-- The snapshot of a running command. -/
def Engine.snapshot : Engine → Option Inputs
  | .idle => none
  | .busy _ snap _ => some snap

/-! ## The invariant -/

/-- What holds of the block in every state a run reaches. -/
structure State.Inv (s : State) : Prop where
  /-- The reserved bits of `CONFIG` are 0 (R32, R49). -/
  config : s.inputs.config &&& ~~~configMask = 0
  /-- While a command runs the snapshot equals the live input registers, the results are 0, DONE and ERRCODE are 0, and
  the completion is ahead (R55, R271). -/
  running : ∀ op snap lat, s.engine = .busy op snap lat →
    snap = s.inputs ∧ s.results = Results.zero ∧ s.done = false ∧ s.errcode = .noError ∧ 1 ≤ lat
  /-- No result stands beside an error (R56). -/
  error : s.errcode ≠ .noError → s.results = Results.zero
  /-- R38, R116: `KEY_LEN` is at most 160. -/
  keyLen : s.results.keyLen.toNat ≤ 160
  /-- R46: the key bytes past `KEY_LEN` are 0. -/
  keyTail : ∀ i, s.results.keyLen.toNat ≤ i → bufferByte s.results.key i = 0
  /-- R43: the digest lengths. -/
  digestLen : s.results.digestLen = 0 ∨ s.results.digestLen = 20 ∨ s.results.digestLen = 32 ∨ s.results.digestLen = 64
  /-- R47: the digest bytes past `DIGEST_LEN` are 0. -/
  digestTail : ∀ i, s.results.digestLen.toNat ≤ i → bufferByte s.results.digest i = 0
  /-- R39: bits 31:4 of `TRUNC_OFF` read 0. -/
  truncOff : s.results.truncOff.toNat < 16
  /-- R40: bit 31 of `TRUNC` reads 0. -/
  trunc : s.results.trunc.toNat < 2 ^ 31
  /-- R41: `CODE` is below 10^8. -/
  code : s.results.code.toNat < 10 ^ 8
  /-- R46: no key stands in the key buffer beside a digest. -/
  keyHidden : s.results.digestLen ≠ 0 → s.results.keyLen = 0
  /-- R260: the state is the reset state while `rst` is asserted. -/
  held : s.rst = true → s = heldInReset s.pending

/-! ## Runs without a refusal -/

/-- R263: no host access arrives while `rst` is asserted; `level` is the level of `rst` before the schedule. -/
def obeysReset : Bool → List Event → Bool
  | _, [] => true
  | level, .quiet :: es => obeysReset level es
  | level, .access _ _ :: es => !level && obeysReset level es
  | _, .rst level :: es => obeysReset level es

/-- The schedule of a state obeys R263. -/
def State.safe (s : State) : Bool := obeysReset s.rst s.pending

/-- No reset arrives in the first `n` events of a schedule. -/
def noResetWithin (n : Nat) (es : List Event) : Prop := ∀ e ∈ es.take n, e ≠ .rst true

end Sys2Proof.Machine
end

