-- ==== Sys2Proof/Certificates/Slice0/Obligations.lean ====
section
/-! DEFINITION. The statements for the provers. -/

open Sys2Proof Sys2Proof.Machine

/-! ## Encoding -/

/-- R92, R94 on a few words, written out from the encoding as the bytes of the word, lane 0 first (log
entry 14). -/
def Obligations.CommandWordsDecodeAsTheTableSays : Prop :=
  decodeBytes [0x01, 0x00, 0x00, 0x00] = .ok (.decode, []) ∧
  decodeBytes [0x02, 0x00, 0x00, 0x00] = .ok (.counter, []) ∧
  decodeBytes [0x03, 0x00, 0x00, 0x00] = .ok (.hotp, []) ∧
  decodeBytes [0x04, 0x00, 0x00, 0x00] = .ok (.totp, []) ∧
  decodeBytes [0x05, 0x00, 0x00, 0x00] = .ok (.clear, []) ∧
  decodeBytes [0x00, 0x00, 0x00, 0x00] = .ok (.invalid 0x00000000, []) ∧
  decodeBytes [0x04, 0x01, 0x00, 0x00] = .ok (.invalid 0x00000104, []) ∧
  decodeBytes [0x05, 0x00, 0x00, 0x80] = .ok (.invalid 0x80000005, [])

/-- Decoding the bytes of a well-formed command, whatever follows them, gives it back and leaves the rest. -/
def Obligations.DecodingAnEncodedCommandGivesItBack : Prop :=
  ∀ (i : Instr) (rest : List Byte), i.wf = true → decodeBytes (encodeBytes i ++ rest) = .ok (i, rest)

/-- Every word decodes to a well-formed command whose encoding is that word; fewer than four bytes are no command. -/
def Obligations.EncodingADecodedWordGivesItBack : Prop :=
  (∀ w : Word, (decodeWord w).wf = true ∧ encode (decodeWord w) = w) ∧
  (∀ bytes : List Byte, bytes.length < 4 → decodeBytes bytes = .error (.truncated bytes.length))

/-- R95: the completion of command word `op` runs the arm the rule's dispatch selects. -/
def Obligations.CompletionDispatchesOnTheCommandWord : Prop :=
  ∀ (s : State) (op : Word) (snap : Inputs) (lat : Nat), s.engine = .busy op snap lat →
    exec (decodeWord op) s = .next (s.finish (
      if op.toNat / 256 ≠ 0 then .error .invalidCommand
      else if op.toNat % 256 = 0x01 then executeDecode snap
      else if op.toNat % 256 = 0x02 then executeCounter snap
      else if op.toNat % 256 = 0x03 then executeHotp snap
      else if op.toNat % 256 = 0x04 then executeTotp snap
      else if op.toNat % 256 = 0x05 then executeClear snap
      else .error .invalidCommand))

/-- R21, R48: each register has one offset, each mapped offset one register, and an aligned offset is unmapped exactly
where the map says reserved. -/
def Obligations.RegisterMapIsOneToOneAndReservedElsewhere : Prop :=
  (∀ r : Reg, regAt r.offset = some r) ∧
  (∀ (off : BitVec 12) (r : Reg), regAt off = some r → r.offset = off) ∧
  (∀ off : BitVec 12, regAt off = none ↔ off.toNat % 4 ≠ 0 ∨ reservedOffset off)

/-! ## Steps, acceptance and completion -/

/-- A step in which a completion is due is `exec` of the decoded command word; it moves past nothing, since the block
has no program counter. `withFetchWord` makes any word due, from any state. One step is one clock cycle, and
how a command comes to run is log entry 7: both are the model's choice. -/
def Obligations.StepRunsTheAcceptedCommand : Prop :=
  (∀ (s : State) (op : Word) (snap : Inputs) (lat : Nat) (i : Instr), s.rst = false →
    s.engine = .busy op snap lat → lat ≤ 1 → decodeBytes (wordBytes op) = .ok (i, []) → step s = exec i s) ∧
  (∀ (s : State) (w : Word),
    step (s.withFetchWord 32 w.toNat) = exec (decodeWord w) (s.withFetchWord 32 w.toNat) ∧
    (s.withFetchWord 32 w.toNat).engine = .busy w s.inputs 1)

/-- A step in which no completion is due serves the host access that arrives, after one cycle of the running command has
passed, and takes it off the schedule. The schedule, the place of the answer and the cycle are the model's choice (log
entries 1, 2 and 3). -/
def Obligations.StepServesTheArrivingAccess : Prop :=
  ∀ (s : State) (a : Access) (latency : Nat) (es : List Event), s.rst = false → s.engine.due = none →
    s.pending = .access a latency :: es →
    ∃ t, step s = .next t ∧ t.pending = es ∧ t.reply.isSome = true ∧ t.rst = false ∧
      (∀ op snap lat, s.engine = .busy op snap lat → 2 ≤ lat ∧ t.engine = .busy op snap (lat - 1))

/-- R55: a `CMD` write while idle takes the snapshot, clears the result group, ERRCODE and DONE, and makes the block
busy; `CTRL`, WDROP and the input group are not changed. The latency is the schedule's, at least 1 (log entry 1);
what is left of the schedule and where the answer stands are the model's choice (log entries 2 and 3). -/
def Obligations.AcceptanceSnapshotsInputsAndClearsResults : Prop :=
  ∀ (s : State) (d : Word) (latency : Nat), s.busy = false → s.served = some (writeTo .cmd d, latency) →
    ∃ t, step s = .next t ∧ t.engine = .busy d s.inputs (max latency 1) ∧
      (∀ r, r.isResult = true → readReg t r = 0) ∧ t.errcode = .noError ∧ t.done = false ∧
      t.irqEn = s.irqEn ∧ t.wdrop = s.wdrop ∧ t.inputs = s.inputs ∧
      readReg t .status = (if s.wdrop then 0x00000009 else 0x00000001) ∧
      t.rst = false ∧ t.pending = s.pending.tail ∧ t.reply = some (.write .okay)

/-- R27: `STATUS.BUSY` changes only at an acceptance, at a completion and by reset. -/
def Obligations.BusyChangesOnlyAtAcceptanceCompletionAndReset : Prop :=
  ∀ s t : State, step s = .next t →
    (s.accepting → t.busy = true) ∧ (s.completing → t.busy = false) ∧ (s.resetting → t.busy = false) ∧
    (¬ s.accepting → ¬ s.completing → ¬ s.resetting → t.busy = s.busy)

/-- R28: DONE is set by every completion; it is cleared by an acceptance, a `STATUS` write with data bit 1 set, and
reset, and by nothing else. -/
def Obligations.DoneIsSetByCompletionAndClearedAsListed : Prop :=
  ∀ s t : State, step s = .next t →
    (s.completing → t.done = true) ∧
    (s.accepting → t.done = false) ∧
    (s.resetting → t.done = false) ∧
    (∀ d latency, s.served = some (writeTo .status d, latency) →
      t.done = (if d.getLsbD 1 then false else s.done)) ∧
    (¬ s.completing → ¬ s.accepting → ¬ s.resetting →
      (∀ d latency, s.served ≠ some (writeTo .status d, latency)) → t.done = s.done)

/-- R30: WDROP is set by a dropped write; it is cleared by a `STATUS` write with data bit 3 set, the completion of
`CLEAR`, and reset, and by nothing else: an acceptance does not clear it. -/
def Obligations.WdropIsStickyUntilClearedAsListed : Prop :=
  ∀ s t : State, step s = .next t →
    (∀ r d latency, s.busy = true → Reg.isInput r = true → s.served = some (writeTo r d, latency) → t.wdrop = true) ∧
    (∀ d latency, s.served = some (writeTo .status d, latency) →
      t.wdrop = (if d.getLsbD 3 then false else s.wdrop)) ∧
    (s.completing → t.wdrop = (if s.engine.due = some 0x00000005 then false else s.wdrop)) ∧
    (s.resetting → t.wdrop = false) ∧
    (s.accepting → t.wdrop = s.wdrop) ∧
    (¬ s.completing → ¬ s.resetting →
      (∀ r d latency, s.busy = true → Reg.isInput r = true → s.served ≠ some (writeTo r d, latency)) →
      (∀ d latency, s.served ≠ some (writeTo .status d, latency)) → t.wdrop = s.wdrop)

/-- R31: an acceptance sets ERRCODE to 0, a completion sets it to the outcome of `Execute`, reset to 0, and it keeps its
value otherwise, also when DONE is cleared. -/
def Obligations.ErrcodeHoldsTheOutcomeUntilTheNextAcceptance : Prop :=
  ∀ s t : State, step s = .next t →
    (s.accepting → t.errcode = .noError) ∧
    (∀ op snap lat, s.rst = false → s.engine = .busy op snap lat → lat ≤ 1 →
      (∀ w, execute (decodeWord op) snap = .ok w → t.errcode = .noError) ∧
      (∀ e, execute (decodeWord op) snap = .error e → t.errcode = e)) ∧
    (s.resetting → t.errcode = .noError) ∧
    (¬ s.completing → ¬ s.accepting → ¬ s.resetting → t.errcode = s.errcode)

/-- R29: the `STATUS` word has BUSY, DONE, ERR and WDROP in bits 0 to 3 and ERRCODE in bits 11:8, ERR is 1 exactly when
ERRCODE is not 0, and every other bit reads 0. -/
def Obligations.StatusWordShowsTheFlags : Prop :=
  ∀ s : State,
    (readReg s .status).getLsbD 0 = s.busy ∧
    (readReg s .status).getLsbD 1 = s.done ∧
    ((readReg s .status).getLsbD 2 = true ↔ (readReg s .status).extractLsb' 8 4 ≠ 0) ∧
    (readReg s .status).getLsbD 3 = s.wdrop ∧
    (readReg s .status).extractLsb' 8 4 = s.errcode.code ∧
    (readReg s .status).extractLsb' 4 4 = 0 ∧ (readReg s .status).extractLsb' 12 20 = 0

/-- R57: `irq` is the level DONE and IRQ_EN: what each kind of step makes of it. -/
def Obligations.IrqIsDoneAndEnable : Prop :=
  (∀ s : State, s.irq = ((readReg s .status).getLsbD 1 && (readReg s .ctrl).getLsbD 0)) ∧
  (∀ s t : State, step s = .next t →
    (s.completing → t.irq = s.irqEn) ∧
    (s.accepting → t.irq = false) ∧
    (s.resetting → t.irq = false) ∧
    (∀ d latency, s.served = some (writeTo .ctrl d, latency) → t.irq = (s.done && d.getLsbD 0)) ∧
    (∀ d latency, s.served = some (writeTo .status d, latency) → t.irq = (s.irq && !d.getLsbD 1)))

/-! ## Host accesses -/

/-- R71, R73, R74, R238: a refused access gets ERROR, a read of it data 0, and it changes no register, no flag and
nothing of a running command but the cycle that passes. The answer stands in `reply` (log entry 3). -/
def Obligations.RefusedAccessesGetErrorAndChangeNothing : Prop :=
  ∀ (s : State) (a : Access) (latency : Nat), s.served = some (a, latency) → a.refusedByBus →
    step s = .next (s.answered a.errorReply)

/-- R270: what the block does with a full-word host write, arm by arm of the rule's `HostWrite`. An accepted command gets
some latency of at least 1 (R9). The answer stands in `reply` (log entry 3). -/
def Obligations.HostWriteFollowsItsRule : Prop :=
  ∀ (s : State) (off : BitVec 12) (d : Word) (latency : Nat),
    s.served = some (⟨off, 4, .write d 0b1111⟩, latency) →
    (off.toNat % 4 ≠ 0 ∨ reservedOffset off → step s = .next (s.answered (.write .error))) ∧
    (∀ r, r.offset = off →
      ((r = .id ∨ r = .version ∨ r.isResult = true) → step s = .next (s.answered (.write .okay))) ∧
      (r = .ctrl → step s = .next { s.answered (.write .okay) with irqEn := d.getLsbD 0 }) ∧
      (r = .status → step s = .next { s.answered (.write .okay) with
        done := if d.getLsbD 1 then false else s.done, wdrop := if d.getLsbD 3 then false else s.wdrop }) ∧
      (r.isInput = true → s.busy = true → step s = .next { s.answered (.write .okay) with wdrop := true }) ∧
      (r = .cmd → s.busy = false → ∃ lat, 1 ≤ lat ∧ step s = .next { s.answered (.write .okay) with
        done := false, errcode := .noError, results := Results.zero, engine := .busy d s.inputs lat }) ∧
      (r.isInput = true → r ≠ .cmd → s.busy = false →
        ∃ t, step s = .next t ∧ t = { s.answered (.write .okay) with inputs := t.inputs } ∧
          readReg t r = (if r = .config then d &&& 0x0000030F else d) ∧
          (∀ r', r' ≠ r → readReg t r' = readReg s r')))

/-- R75, R81: no read changes any state, and a read of a mapped register answers its current value with OKAY. The answer
stands in `reply` (log entry 3). -/
def Obligations.ReadsAnswerTheRegisterAndChangeNothing : Prop :=
  (∀ (s : State) (off : BitVec 12) (size latency : Nat), s.served = some (⟨off, size, .read⟩, latency) →
    ∃ r, step s = .next (s.answered r)) ∧
  (∀ (s : State) (r : Reg) (latency : Nat), s.served = some (readOf r, latency) →
    step s = .next (s.answered (.read (readReg s r) .okay)) ∧
    (r = .id → readReg s r = 0x50544F54) ∧ (r = .version → readReg s r = 0x00010000) ∧ (r = .cmd → readReg s r = 0))

/-- R271: what a host reads while a command runs, in a state a run reaches: every result register 0, the input registers
the values the command uses (`COUNTER` its value from before the command), `STATUS` BUSY with DONE = 0 and ERRCODE = 0,
and a read of a register is never an error. -/
def Obligations.ReadsWhileBusyShowNoResults : Prop :=
  ∀ (s : State) (op : Word) (snap : Inputs) (lat : Nat), s.Inv → s.engine = .busy op snap lat →
    (∀ r, r.isResult = true → readReg s r = 0) ∧
    (∀ r, r.isInput = true → readReg s r = readReg { s with inputs := snap } r) ∧
    readReg s .status = (if s.wdrop then 0x00000009 else 0x00000001) ∧
    (∀ r latency, s.served = some (readOf r, latency) →
      ∃ t, step s = .next t ∧ t.reply = some (.read (readReg s r) .okay))

/-- R70, R12: an address in the window makes the access at its offset from `BASE`, whatever `BASE` is, and an address
outside it makes none. `BASE` is a free value (log entry 4); that `addr` is a bus address, as in R70 and not in R12, is the
model's choice (log entry 18). -/
def Obligations.BusAddressesMapToWindowOffsets : Prop :=
  (∀ (off : BitVec 12) (v : Word), memRead (Config.base + off.toNat) = some ⟨off, 4, .read⟩ ∧
    memWrite (Config.base + off.toNat) v = some ⟨off, 4, .write v 0b1111⟩) ∧
  (∀ addr : Nat, (addr < Config.base ∨ Config.base + 4096 ≤ addr) → memRead addr = none ∧
    ∀ v, memWrite addr v = none)

/-! ## Reset -/

/-- R59: the reset value of every register, and an idle engine. -/
def Obligations.ResetValuesAreThoseOfTheMap : Prop :=
  (∀ r : Reg, readReg State.reset r =
    match r with
    | .id => 0x50544F54
    | .version => 0x00010000
    | .config => 0x00000006
    | .period => 0x0000001E
    | _ => 0) ∧
  State.reset.engine = .idle ∧ State.reset.irq = false

/-- R261: a reset abandons a running command, and after its release the block is in the reset state. That a reset is two
events of the schedule is the model's choice (log entry 6). -/
def Obligations.ResetAbandonsARunningCommand : Prop :=
  ∀ (s : State) (es : List Event), s.rst = false → s.engine.due = none →
    s.pending = .rst true :: .rst false :: es →
    Host.Core.run Sys2Proof.core 2 s = .next { State.reset with pending := es }

/-- A step stops only where a host access arrives while `rst` is asserted (R263; log entry 6), and it never
faults. -/
def Obligations.StepStopsOnlyOnAnAccessDuringReset : Prop :=
  ∀ s : State, (∃ t, step s = .next t) ∨
    (step s = .refused .accessDuringReset ∧ s.rst = true ∧ ∃ a latency es, s.pending = .access a latency :: es)

/-- R263: under a schedule that obeys it, a run of any length goes on, from any state (log entries 2 and 6). -/
def Obligations.RunsGoOnWhileHostsObeyReset : Prop :=
  ∀ (n : Nat) (s : State), s.safe = true → ∃ t, Host.Core.run Sys2Proof.core n s = .next t ∧ State.safe t = true

/-! ## The invariant -/

/-- The invariant holds in the reset state. -/
def Obligations.InvariantHoldsAtReset : Prop := State.reset.Inv

/-- Every step keeps the invariant, from every state that meets it. -/
def Obligations.EveryStepKeepsTheInvariant : Prop :=
  ∀ s t : State, s.Inv → step s = .next t → t.Inv

/-- R276: from an idle block, results change only at the next acceptance, which clears them, or by reset. -/
def Obligations.ResultsStayUntilTheNextAcceptanceOrReset : Prop :=
  ∀ s t : State, s.busy = false → step s = .next t →
    (s.accepting → t.results = Results.zero) ∧ (s.resetting → t.results = Results.zero) ∧
    (¬ s.accepting → ¬ s.resetting → t.results = s.results)

/-- Whole-machine frame of the input group: it changes only by a host write to it while idle, by the completion of
`COUNTER`, `TOTP` or `CLEAR`, and by reset; `TIME` never advances by itself. -/
def Obligations.InputsChangeOnlyByHostCommandOrReset : Prop :=
  ∀ s t : State, step s = .next t → t.inputs ≠ s.inputs →
    (s.busy = false ∧ ∃ r d latency, Reg.isInput r = true ∧ s.served = some (writeTo r d, latency)) ∨
    (s.rst = false ∧ ∃ op, s.engine.due = some op ∧ (op = 2 ∨ op = 4 ∨ op = 5) ∧
      (op ≠ 5 → t.inputs.time = s.inputs.time)) ∨
    s.resetting

/-! ## Time: completion is reached, and nothing that arrives before it matters -/

/-- R268: a running command completes after the cycles that are left, whatever accesses arrive, unless a reset does;
its results, input registers and error code are those of completing at once. One access a cycle is the model's choice (log
entries 1, 2 and 5). -/
def Obligations.ARunningCommandCompletesUndisturbed : Prop :=
  ∀ (s : State) (op : Word) (snap : Inputs) (lat : Nat), s.rst = false → s.engine = .busy op snap lat →
    noResetWithin (lat - 1) s.pending →
    ∃ t u, Host.Core.run Sys2Proof.core (max lat 1) s = .next t ∧ exec (decodeWord op) s = .next u ∧
      State.busy t = false ∧ State.done t = true ∧ State.errcode t = u.errcode ∧ State.results t = u.results ∧
      State.inputs t = u.inputs

/-- R8, R55: two states that run the same snapshot complete with the same error code, and every register a successful
command writes gets the same value in both, whatever else they hold. -/
def Obligations.OutcomeDependsOnTheSnapshotAlone : Prop :=
  ∀ (i : Instr) (s1 s2 t1 t2 : State) (snap : Inputs), s1.engine.snapshot = some snap →
    s2.engine.snapshot = some snap → exec i s1 = .next t1 → exec i s2 = .next t2 →
    t1.errcode = t2.errcode ∧
    (∀ r, r ≠ .ctrl → r ≠ .status → readReg t1 r = readReg t2 r ∨ (readReg t1 r = readReg s1 r ∧ readReg t2 r = readReg s2 r))

/-! ## Errors -/

/-- R162: `HOTP` and `TOTP` report the first check that fails, in the order V1 to V4, and for `TOTP` then V5, and write
nothing else. -/
def Obligations.OtpErrorsFollowTheValidationOrder : Prop :=
  ∀ (s : State) (op : Word) (snap : Inputs) (lat : Nat), s.engine = .busy op snap lat →
    ∀ i : Instr, (i = .hotp ∨ i = .totp) → ∃ t, exec i s = .next t ∧
      (¬ snap.V1 → Completed .invalidSecretLength noReg s t) ∧
      (snap.V1 → ¬ snap.V2 → Completed .invalidSecretAlphabet noReg s t) ∧
      (snap.V1 → snap.V2 → ¬ snap.V3 → Completed .invalidDigits noReg s t) ∧
      (snap.V1 → snap.V2 → snap.V3 → snap.algField = 3 → Completed .invalidAlgorithm noReg s t) ∧
      (i = .totp → snap.V1 → snap.V2 → snap.V3 → snap.algField ≠ 3 → ¬ snap.V5 →
        Completed .invalidPeriod noReg s t)

/-- `DECODE` checks V1 then V2, and `COUNTER` V5 only (R240); on a failure nothing but ERRCODE, DONE and the phase
changes. -/
def Obligations.DecodeAndCounterErrors : Prop :=
  ∀ (s : State) (op : Word) (snap : Inputs) (lat : Nat), s.engine = .busy op snap lat →
    (¬ snap.V1 → ∃ t, exec .decode s = .next t ∧ Completed .invalidSecretLength noReg s t) ∧
    (snap.V1 → ¬ snap.V2 → ∃ t, exec .decode s = .next t ∧ Completed .invalidSecretAlphabet noReg s t) ∧
    (¬ snap.V5 → ∃ t, exec .counter s = .next t ∧ Completed .invalidPeriod noReg s t)

/-- R242: a command that fails leaves every input register as it was at acceptance and the result group at zero.
Running a command from its acceptance is log entry 7. -/
def Obligations.FailedCommandsLeaveInputsAndNoResults : Prop :=
  ∀ (s t : State) (op : Word), s.runCommand op = .next t → t.errcode ≠ .noError →
    t.inputs = s.inputs ∧ (∀ r, r.isResult = true → readReg t r = 0) ∧ t.wdrop = s.wdrop ∧ t.irqEn = s.irqEn

/-- R94, R221: an invalid word written to `CMD` while idle is accepted, and completes with INVALID_COMMAND and no other
change beyond what acceptance changes. -/
def Obligations.InvalidWordsAreAcceptedAndFail : Prop :=
  ∀ w : Word, (w.toNat / 256 ≠ 0 ∨ w.toNat % 256 = 0 ∨ 6 ≤ w.toNat % 256) →
    decodeWord w = .invalid w ∧
    (∀ (s : State) (op : Word) (snap : Inputs) (lat : Nat), s.engine = .busy op snap lat →
      ∃ t, exec (.invalid w) s = .next t ∧ Completed .invalidCommand noReg s t) ∧
    (∀ (s : State) (latency : Nat), s.busy = false → s.served = some (writeTo .cmd w, latency) →
      ∃ t lat, step s = .next t ∧ 1 ≤ lat ∧ t.engine = .busy w s.inputs lat)

/-! ## The Base32 decoder and `DECODE` -/

/-- R116: the RawKey of a legal secret has 5n/8 bytes. -/
def Obligations.RawKeyLengthIsFiveEighths : Prop :=
  (∀ chars : List Byte, (decodeChars chars).length = chars.length * 5 / 8) ∧
  (∀ inp : Inputs, inp.V1 → (decodeSecret inp).length = inp.length * 5 / 8 ∧
    8 * (decodeSecret inp).length = 5 * inp.length ∧ 10 ≤ (decodeSecret inp).length ∧ (decodeSecret inp).length ≤ 160)

/-- R115: the RawKey of a legal secret, read as a big-endian number, is the number its symbols spell in base 32, first
symbol most significant. -/
def Obligations.RawKeyIsTheBase32Number : Prop :=
  ∀ inp : Inputs, inp.V1 → inp.V2 →
    beNat (decodeSecret inp) =
      (List.range inp.length).foldl (fun n i => n * 32 + ((b32val (inp.secretByte i)).getD 0).toNat) 0

/-- R110: the value of each of the 256 byte codes. -/
def Obligations.AlphabetValuesAreByPosition : Prop :=
  ∀ c : Byte, b32val c =
    if 0x41 ≤ c.toNat ∧ c.toNat ≤ 0x5A then some (BitVec.ofNat 5 (c.toNat - 0x41))
    else if 0x61 ≤ c.toNat ∧ c.toNat ≤ 0x7A then some (BitVec.ofNat 5 (c.toNat - 0x61))
    else if 0x32 ≤ c.toNat ∧ c.toNat ≤ 0x37 then some (BitVec.ofNat 5 (c.toNat - 0x32 + 26))
    else none

/-- R117: two secrets that differ in the case of letters only decode to the same RawKey, and the one is legal where the
other is. `c + 0x20` is the lower-case form of an upper-case letter. -/
def Obligations.CaseDoesNotChangeTheKey : Prop :=
  ∀ inp inp' : Inputs, inp.secretLen = inp'.secretLen →
    (∀ i, i < inp.length →
      inp'.secretByte i = inp.secretByte i ∨
      (0x41 ≤ inp.secretByte i ∧ inp.secretByte i ≤ 0x5A ∧ inp'.secretByte i = inp.secretByte i + 0x20) ∨
      (0x41 ≤ inp'.secretByte i ∧ inp'.secretByte i ≤ 0x5A ∧ inp.secretByte i = inp'.secretByte i + 0x20)) →
    decodeSecret inp = decodeSecret inp' ∧ (inp.V2 ↔ inp'.V2)

/-- R112: the buffer bytes at or past SECRET_LEN affect no command's outcome. -/
def Obligations.BytesPastTheLengthAreIgnored : Prop :=
  ∀ (i : Instr) (inp : Inputs) (buf : Vector Word 64),
    (∀ k, k < inp.length → bufferByte buf k = inp.secretByte k) →
    execute i { inp with secret := buf } = execute i inp

/-- `DECODE` of a legal secret completes: the key buffer holds the RawKey and 0x00 after it, `KEY_LEN` its length
5n/8, and no other register changes but `STATUS`. -/
def Obligations.DecodeCompletesWithTheRawKey : Prop :=
  ∀ (s : State) (op : Word) (snap : Inputs) (lat : Nat), s.engine = .busy op snap lat → snap.V1 → snap.V2 →
    ∃ t, exec .decode s = .next t ∧ Completed .noError Reg.isKeyResult s t ∧
      readReg t .keyLen = BitVec.ofNat 32 (snap.length * 5 / 8) ∧
      (∀ (k : Fin 40) (j : Nat), j < 4 →
        lane (readReg t (.key k)) j = (decodeSecret snap).getD (4 * k.val + j) 0)

/-! ## The counter and `COUNTER` -/

/-- R133: the counter is the exact integer sum mod 2^64, and equals 64-bit two's complement addition. -/
def Obligations.CounterIsTheSumModulo64Bits : Prop :=
  ∀ inp : Inputs,
    ((timeCounter inp).toNat : Int) = ((inp.offsetHi ++ inp.offsetLo).toInt +
      ((inp.timeHi ++ inp.timeLo).toNat / inp.period.toNat : Nat)) % 2 ^ 64 ∧
    timeCounter inp = (inp.offsetHi ++ inp.offsetLo) +
      BitVec.ofNat 64 ((inp.timeHi ++ inp.timeLo).toNat / inp.period.toNat)

/-- `COUNTER` completes whenever PERIOD is not 0, whatever the secret and `CONFIG` are, and writes `COUNTER` only. -/
def Obligations.CounterCompletesWithTheTimeStep : Prop :=
  ∀ (s : State) (op : Word) (snap : Inputs) (lat : Nat), s.engine = .busy op snap lat → snap.V5 →
    ∃ t, exec .counter s = .next t ∧ Completed .noError Reg.isCounter s t ∧
      readReg t .counterHi ++ readReg t .counterLo =
        (snap.offsetHi ++ snap.offsetLo) + BitVec.ofNat 64 ((snap.timeHi ++ snap.timeLo).toNat / snap.period.toNat)

/-! ## Hash functions, HMAC and truncation -/

/-- R205: the SHA-256 and SHA-512 constants are the first bits of the fractional parts of the cube roots of the first 64
and 80 primes, and their initial states those of the square roots of the first 8: `r` is the integer root, and the
constant its low word. -/
def Obligations.HashConstantsAreRootsOfPrimes : Prop :=
  primesTo409.length = 80 ∧
  (∀ t, t < 64 → ∃ r, r ^ 3 ≤ primesTo409.getD t 0 * 2 ^ 96 ∧ primesTo409.getD t 0 * 2 ^ 96 < (r + 1) ^ 3 ∧
    sha256Constants[t]? = some (BitVec.ofNat 32 r)) ∧
  (∀ t, t < 80 → ∃ r, r ^ 3 ≤ primesTo409.getD t 0 * 2 ^ 192 ∧ primesTo409.getD t 0 * 2 ^ 192 < (r + 1) ^ 3 ∧
    sha512Constants[t]? = some (BitVec.ofNat 64 r)) ∧
  (∀ t, t < 8 → ∃ r, r ^ 2 ≤ primesTo409.getD t 0 * 2 ^ 64 ∧ primesTo409.getD t 0 * 2 ^ 64 < (r + 1) ^ 2 ∧
    sha256Initial[t]? = some (BitVec.ofNat 32 r)) ∧
  (∀ t, t < 8 → ∃ r, r ^ 2 ≤ primesTo409.getD t 0 * 2 ^ 128 ∧ primesTo409.getD t 0 * 2 ^ 128 < (r + 1) ^ 2 ∧
    sha512Initial[t]? = some (BitVec.ofNat 64 r))

/-- R186, R190, R194: the message schedules. Each starts with the 16 words of the block, has one word per round, and
every later word follows the rule's recurrence. -/
def Obligations.MessageSchedulesFollowTheirRecurrences : Prop :=
  (∀ ws : List (BitVec 32), ws.length = 16 →
    (sha1Schedule ws).length = 80 ∧ (sha1Schedule ws).take 16 = ws ∧
    ∀ t, 16 ≤ t → t < 80 → (sha1Schedule ws).getD t 0 =
      ((sha1Schedule ws).getD (t - 3) 0 ^^^ (sha1Schedule ws).getD (t - 8) 0 ^^^
        (sha1Schedule ws).getD (t - 14) 0 ^^^ (sha1Schedule ws).getD (t - 16) 0).rotateLeft 1) ∧
  (∀ ws : List (BitVec 32), ws.length = 16 →
    (sha256Params.schedule ws).length = 64 ∧ (sha256Params.schedule ws).take 16 = ws ∧
    ∀ t, 16 ≤ t → t < 64 → (sha256Params.schedule ws).getD t 0 =
      sha256Params.smallSigma1 ((sha256Params.schedule ws).getD (t - 2) 0) + (sha256Params.schedule ws).getD (t - 7) 0 +
        sha256Params.smallSigma0 ((sha256Params.schedule ws).getD (t - 15) 0) +
        (sha256Params.schedule ws).getD (t - 16) 0) ∧
  (∀ ws : List (BitVec 64), ws.length = 16 →
    (sha512Params.schedule ws).length = 80 ∧ (sha512Params.schedule ws).take 16 = ws ∧
    ∀ t, 16 ≤ t → t < 80 → (sha512Params.schedule ws).getD t 0 =
      sha512Params.smallSigma1 ((sha512Params.schedule ws).getD (t - 2) 0) + (sha512Params.schedule ws).getD (t - 7) 0 +
        sha512Params.smallSigma0 ((sha512Params.schedule ws).getD (t - 15) 0) +
        (sha512Params.schedule ws).getD (t - 16) 0)

/-- R182: padding makes the length a multiple of the block with the fewest zero bytes, and ends with the length in
bits. -/
def Obligations.PaddingIsTheLeastThatFillsBlocks : Prop :=
  ∀ (block lenField : Nat) (m : List Byte), 0 < block →
    ∃ z, hashPad block lenField m = m ++ [0x80] ++ List.replicate z 0x00 ++ beBytes lenField (8 * m.length) ∧
      (hashPad block lenField m).length % block = 0 ∧
      (∀ z', z' < z → (m.length + 1 + z' + lenField) % block ≠ 0) ∧
      (8 * m.length < 256 ^ lenField → beNat (beBytes lenField (8 * m.length)) = 8 * m.length)

/-- R201: the prepared key fills the block; a key longer than the block is hashed first, and the secret lengths for which
that happens. -/
def Obligations.HmacKeyPreparation : Prop :=
  (∀ (alg : Alg) (key : List Byte), (hmacKey alg key).length = alg.blockBytes ∧
    (key.length ≤ alg.blockBytes → hmacKey alg key = key ++ List.replicate (alg.blockBytes - key.length) 0x00) ∧
    (alg.blockBytes < key.length →
      hmacKey alg key = alg.hash key ++ List.replicate (alg.blockBytes - alg.digestLen) 0x00)) ∧
  (∀ (alg : Alg) (inp : Inputs), inp.V1 →
    ((decodeSecret inp).length ≤ alg.blockBytes ↔ inp.length ≤ (if alg = .sha512 then 200 else 96)))

/-- R77, R136: the HMAC message is the 8 bytes of the counter, most significant first. -/
def Obligations.HmacMessageIsTheCounterBigEndian : Prop :=
  ∀ c : DWord, (be64 c).length = 8 ∧ (∀ i, i < 8 → (be64 c).getD i 0 = c.extractLsb' (56 - 8 * i) 8) ∧
    beNat (be64 c) = c.toNat

/-- R153, R154, R155: the offset is the last digest byte's low nibble, the window lies inside every digest, the truncated
value is the window's big-endian number less its top bit, and the code is below 10^digits. -/
def Obligations.TruncationReadsAWindowOfTheDigest : Prop :=
  ∀ (alg : Alg) (key m : List Byte) (digits : Nat), (digits = 6 ∨ digits = 7 ∨ digits = 8) →
    truncationOffset (hmac alg key m) = ((hmac alg key m).getD (alg.digestLen - 1) 0).toNat % 16 ∧
    truncationOffset (hmac alg key m) + 3 < 19 ∧ 19 < (hmac alg key m).length ∧
    (truncatedValue (hmac alg key m)).toNat =
      beNat (((hmac alg key m).drop (truncationOffset (hmac alg key m))).take 4) % 2 ^ 31 ∧
    otpCode (hmac alg key m) digits = (truncatedValue (hmac alg key m)).toNat % 10 ^ digits ∧
    otpCode (hmac alg key m) digits < 10 ^ digits ∧ otpCode (hmac alg key m) digits < 2 ^ 27

/-- R156: the OTP characters are ASCII digits that spell the code in exactly `digits` places, and 0x00 after them. -/
def Obligations.OtpCharactersSpellTheCode : Prop :=
  ∀ code digits : Nat, (digits = 6 ∨ digits = 7 ∨ digits = 8) → code < 10 ^ digits →
    (∀ i, i < digits → 0x30 ≤ (otpChar code digits i).toNat ∧ (otpChar code digits i).toNat ≤ 0x39) ∧
    (∀ i, digits ≤ i → otpChar code digits i = 0x00) ∧
    (List.range digits).foldl (fun n i => n * 10 + ((otpChar code digits i).toNat - 0x30)) 0 = code

/-! ## `HOTP`, `TOTP` and `CLEAR` -/

/-- `HOTP` with legal secret, digits and algorithm completes from `COUNTER`, whatever PERIOD is: the digest and OTP
registers show the computation, and no other register changes but `STATUS`. -/
def Obligations.HotpCompletesWithTheCode : Prop :=
  ∀ (s : State) (op : Word) (snap : Inputs) (lat : Nat) (alg : Alg), s.engine = .busy op snap lat →
    snap.V1 → snap.V2 → snap.V3 → snap.V4 alg →
    ∃ t, exec .hotp s = .next t ∧ Completed .noError Reg.isOtpResult s t ∧
      OtpShown snap alg (snap.counterHi ++ snap.counterLo) t

/-- `TOTP` with legal secret, digits, algorithm and period completes: `COUNTER` holds the time-step counter, the digest
and OTP registers show the computation for it, and no other register changes but `STATUS`. -/
def Obligations.TotpCompletesWithTheCode : Prop :=
  ∀ (s : State) (op : Word) (snap : Inputs) (lat : Nat) (alg : Alg), s.engine = .busy op snap lat →
    snap.V1 → snap.V2 → snap.V3 → snap.V4 alg → snap.V5 →
    ∃ t, exec .totp s = .next t ∧ Completed .noError (fun r => r.isCounter || r.isOtpResult) s t ∧
      readReg t .counterHi ++ readReg t .counterLo = (snap.offsetHi ++ snap.offsetLo) +
        BitVec.ofNat 64 ((snap.timeHi ++ snap.timeLo).toNat / snap.period.toNat) ∧
      OtpShown snap alg (readReg t .counterHi ++ readReg t .counterLo) t

/-- R137: `COUNTER` then `HOTP` gives what one `TOTP` gives, where all checks pass: the same registers and flags, and the
same state altogether. Running a command from its acceptance is log entry 7. -/
def Obligations.CounterThenHotpEqualsTotp : Prop :=
  ∀ (s : State) (alg : Alg), s.inputs.V1 → s.inputs.V2 → s.inputs.V3 → s.inputs.V4 alg → s.inputs.V5 →
    ∃ t u, s.runCommand 0x00000002 = .next t ∧ t.runCommand 0x00000003 = .next u ∧
      s.runCommand 0x00000004 = .next u

/-- R166: two `TOTP` commands whose times fall in the same period, with the other inputs equal, give the same results and
the same `COUNTER`, success or error. Running a command from its acceptance is log entry 7. -/
def Obligations.SameTimeStepGivesTheSameCode : Prop :=
  ∀ (s : State) (lo hi : Word),
    (hi ++ lo).toNat / s.inputs.period.toNat = s.inputs.time.toNat / s.inputs.period.toNat →
    ∃ t u, s.runCommand 0x00000004 = .next t ∧
      State.runCommand { s with inputs := { s.inputs with timeLo := lo, timeHi := hi } } 0x00000004 = .next u ∧
      t.results = u.results ∧ t.inputs.counter = u.inputs.counter ∧ t.errcode = u.errcode

/-- `CLEAR` always completes: every input register holds its reset value and WDROP is 0; the result group and `CTRL` are
not written. From its acceptance on, every register but `CTRL` and `STATUS` holds its reset value, and `STATUS` reads
DONE; running a command from its acceptance is log entry 7. -/
def Obligations.ClearCompletesAndWipesTheInputs : Prop :=
  (∀ (s : State) (op : Word) (snap : Inputs) (lat : Nat), s.engine = .busy op snap lat →
    ∃ t, exec .clear s = .next t ∧ Frame (fun r => r == .status || r.isInput) s t ∧
      (∀ r, r.isInput = true → readReg t r = readReg State.reset r) ∧
      t.wdrop = false ∧ t.done = true ∧ t.errcode = .noError ∧ t.engine = .idle) ∧
  (∀ s : State, ∃ t, s.runCommand 0x00000005 = .next t ∧ t.irqEn = s.irqEn ∧ readReg t .status = 0x00000002 ∧
    (∀ r, r ≠ .ctrl → r ≠ .status → readReg t r = readReg State.reset r))

/-- R46: the key buffer never shows a RawKey that `HOTP` or `TOTP` used: after either, run from its acceptance on,
`KEY_LEN` and every key word read 0. Running a command from its acceptance is log entry 7. -/
def Obligations.OtpCommandsDoNotExposeTheKey : Prop :=
  ∀ (s : State) (op : Word), (op = 0x00000003 ∨ op = 0x00000004) →
    ∃ t, s.runCommand op = .next t ∧ readReg t .keyLen = 0 ∧ ∀ k, readReg t (.key k) = 0
end

