-- ==== Sys2Proof/Laws/State.lean ====
section
/-! SUPPORT. One lemma per field per named update of the state, true by unfolding the update, so that no later proof
unfolds one. -/

namespace Sys2Proof.Machine

/-! ## `accept` -/

@[simp] theorem State.accept_irqEn (s : State) (d : Word) (l : Nat) : (s.accept d l).irqEn = s.irqEn := rfl
@[simp] theorem State.accept_done (s : State) (d : Word) (l : Nat) : (s.accept d l).done = false := rfl
@[simp] theorem State.accept_wdrop (s : State) (d : Word) (l : Nat) : (s.accept d l).wdrop = s.wdrop := rfl
@[simp] theorem State.accept_errcode (s : State) (d : Word) (l : Nat) : (s.accept d l).errcode = .noError := rfl
@[simp] theorem State.accept_inputs (s : State) (d : Word) (l : Nat) : (s.accept d l).inputs = s.inputs := rfl
@[simp] theorem State.accept_results (s : State) (d : Word) (l : Nat) : (s.accept d l).results = Results.zero := rfl
@[simp] theorem State.accept_engine (s : State) (d : Word) (l : Nat) :
    (s.accept d l).engine = .busy d s.inputs (max l 1) := rfl
@[simp] theorem State.accept_rst (s : State) (d : Word) (l : Nat) : (s.accept d l).rst = s.rst := rfl
@[simp] theorem State.accept_pending (s : State) (d : Word) (l : Nat) : (s.accept d l).pending = s.pending := rfl
@[simp] theorem State.accept_reply (s : State) (d : Word) (l : Nat) : (s.accept d l).reply = s.reply := rfl

/-! ## `endCommand` -/

@[simp] theorem State.endCommand_irqEn (s : State) (e : ErrCode) : (s.endCommand e).irqEn = s.irqEn := rfl
@[simp] theorem State.endCommand_done (s : State) (e : ErrCode) : (s.endCommand e).done = true := rfl
@[simp] theorem State.endCommand_wdrop (s : State) (e : ErrCode) : (s.endCommand e).wdrop = s.wdrop := rfl
@[simp] theorem State.endCommand_errcode (s : State) (e : ErrCode) : (s.endCommand e).errcode = e := rfl
@[simp] theorem State.endCommand_inputs (s : State) (e : ErrCode) : (s.endCommand e).inputs = s.inputs := rfl
@[simp] theorem State.endCommand_results (s : State) (e : ErrCode) : (s.endCommand e).results = s.results := rfl
@[simp] theorem State.endCommand_engine (s : State) (e : ErrCode) : (s.endCommand e).engine = .idle := rfl
@[simp] theorem State.endCommand_rst (s : State) (e : ErrCode) : (s.endCommand e).rst = s.rst := rfl
@[simp] theorem State.endCommand_pending (s : State) (e : ErrCode) : (s.endCommand e).pending = s.pending := rfl
@[simp] theorem State.endCommand_reply (s : State) (e : ErrCode) : (s.endCommand e).reply = s.reply := rfl

/-! ## `writeKey` -/

@[simp] theorem State.writeKey_irqEn (s : State) (k : List Byte) : (s.writeKey k).irqEn = s.irqEn := rfl
@[simp] theorem State.writeKey_done (s : State) (k : List Byte) : (s.writeKey k).done = s.done := rfl
@[simp] theorem State.writeKey_wdrop (s : State) (k : List Byte) : (s.writeKey k).wdrop = s.wdrop := rfl
@[simp] theorem State.writeKey_errcode (s : State) (k : List Byte) : (s.writeKey k).errcode = s.errcode := rfl
@[simp] theorem State.writeKey_inputs (s : State) (k : List Byte) : (s.writeKey k).inputs = s.inputs := rfl
@[simp] theorem State.writeKey_results (s : State) (k : List Byte) :
    (s.writeKey k).results = { s.results with keyLen := BitVec.ofNat 32 k.length, key := packBuffer 40 k } := rfl
@[simp] theorem State.writeKey_engine (s : State) (k : List Byte) : (s.writeKey k).engine = s.engine := rfl
@[simp] theorem State.writeKey_rst (s : State) (k : List Byte) : (s.writeKey k).rst = s.rst := rfl
@[simp] theorem State.writeKey_pending (s : State) (k : List Byte) : (s.writeKey k).pending = s.pending := rfl
@[simp] theorem State.writeKey_reply (s : State) (k : List Byte) : (s.writeKey k).reply = s.reply := rfl

/-! ## `writeCounter` -/

@[simp] theorem State.writeCounter_irqEn (s : State) (c : DWord) : (s.writeCounter c).irqEn = s.irqEn := rfl
@[simp] theorem State.writeCounter_done (s : State) (c : DWord) : (s.writeCounter c).done = s.done := rfl
@[simp] theorem State.writeCounter_wdrop (s : State) (c : DWord) : (s.writeCounter c).wdrop = s.wdrop := rfl
@[simp] theorem State.writeCounter_errcode (s : State) (c : DWord) : (s.writeCounter c).errcode = s.errcode := rfl
@[simp] theorem State.writeCounter_inputs (s : State) (c : DWord) :
    (s.writeCounter c).inputs = { s.inputs with
      counterLo := c.extractLsb' 0 32, counterHi := c.extractLsb' 32 32 } := rfl
@[simp] theorem State.writeCounter_results (s : State) (c : DWord) : (s.writeCounter c).results = s.results := rfl
@[simp] theorem State.writeCounter_engine (s : State) (c : DWord) : (s.writeCounter c).engine = s.engine := rfl
@[simp] theorem State.writeCounter_rst (s : State) (c : DWord) : (s.writeCounter c).rst = s.rst := rfl
@[simp] theorem State.writeCounter_pending (s : State) (c : DWord) : (s.writeCounter c).pending = s.pending := rfl
@[simp] theorem State.writeCounter_reply (s : State) (c : DWord) : (s.writeCounter c).reply = s.reply := rfl

/-! ## `writeOtp` -/

@[simp] theorem State.writeOtp_irqEn (s : State) (o : OtpResult) : (s.writeOtp o).irqEn = s.irqEn := rfl
@[simp] theorem State.writeOtp_done (s : State) (o : OtpResult) : (s.writeOtp o).done = s.done := rfl
@[simp] theorem State.writeOtp_wdrop (s : State) (o : OtpResult) : (s.writeOtp o).wdrop = s.wdrop := rfl
@[simp] theorem State.writeOtp_errcode (s : State) (o : OtpResult) : (s.writeOtp o).errcode = s.errcode := rfl
@[simp] theorem State.writeOtp_inputs (s : State) (o : OtpResult) : (s.writeOtp o).inputs = s.inputs := rfl
@[simp] theorem State.writeOtp_results (s : State) (o : OtpResult) :
    (s.writeOtp o).results = { s.results with
      truncOff := o.truncOff, trunc := o.trunc, code := o.code,
      otpAscii0 := packWord o.chars 0, otpAscii1 := packWord o.chars 1,
      digestLen := BitVec.ofNat 32 o.digest.length, digest := packBuffer 16 o.digest } := rfl
@[simp] theorem State.writeOtp_engine (s : State) (o : OtpResult) : (s.writeOtp o).engine = s.engine := rfl
@[simp] theorem State.writeOtp_rst (s : State) (o : OtpResult) : (s.writeOtp o).rst = s.rst := rfl
@[simp] theorem State.writeOtp_pending (s : State) (o : OtpResult) : (s.writeOtp o).pending = s.pending := rfl
@[simp] theorem State.writeOtp_reply (s : State) (o : OtpResult) : (s.writeOtp o).reply = s.reply := rfl

/-! ## `wipeInputs` -/

@[simp] theorem State.wipeInputs_irqEn (s : State) : s.wipeInputs.irqEn = s.irqEn := rfl
@[simp] theorem State.wipeInputs_done (s : State) : s.wipeInputs.done = s.done := rfl
@[simp] theorem State.wipeInputs_wdrop (s : State) : s.wipeInputs.wdrop = false := rfl
@[simp] theorem State.wipeInputs_errcode (s : State) : s.wipeInputs.errcode = s.errcode := rfl
@[simp] theorem State.wipeInputs_inputs (s : State) : s.wipeInputs.inputs = Inputs.reset := rfl
@[simp] theorem State.wipeInputs_results (s : State) : s.wipeInputs.results = s.results := rfl
@[simp] theorem State.wipeInputs_engine (s : State) : s.wipeInputs.engine = s.engine := rfl
@[simp] theorem State.wipeInputs_rst (s : State) : s.wipeInputs.rst = s.rst := rfl
@[simp] theorem State.wipeInputs_pending (s : State) : s.wipeInputs.pending = s.pending := rfl
@[simp] theorem State.wipeInputs_reply (s : State) : s.wipeInputs.reply = s.reply := rfl

/-! ## `writeCtrl` -/

@[simp] theorem State.writeCtrl_irqEn (s : State) (d : Word) : (s.writeCtrl d).irqEn = d.getLsbD 0 := rfl
@[simp] theorem State.writeCtrl_done (s : State) (d : Word) : (s.writeCtrl d).done = s.done := rfl
@[simp] theorem State.writeCtrl_wdrop (s : State) (d : Word) : (s.writeCtrl d).wdrop = s.wdrop := rfl
@[simp] theorem State.writeCtrl_errcode (s : State) (d : Word) : (s.writeCtrl d).errcode = s.errcode := rfl
@[simp] theorem State.writeCtrl_inputs (s : State) (d : Word) : (s.writeCtrl d).inputs = s.inputs := rfl
@[simp] theorem State.writeCtrl_results (s : State) (d : Word) : (s.writeCtrl d).results = s.results := rfl
@[simp] theorem State.writeCtrl_engine (s : State) (d : Word) : (s.writeCtrl d).engine = s.engine := rfl
@[simp] theorem State.writeCtrl_rst (s : State) (d : Word) : (s.writeCtrl d).rst = s.rst := rfl
@[simp] theorem State.writeCtrl_pending (s : State) (d : Word) : (s.writeCtrl d).pending = s.pending := rfl
@[simp] theorem State.writeCtrl_reply (s : State) (d : Word) : (s.writeCtrl d).reply = s.reply := rfl

/-! ## `writeStatus` -/

@[simp] theorem State.writeStatus_irqEn (s : State) (d : Word) : (s.writeStatus d).irqEn = s.irqEn := rfl
@[simp] theorem State.writeStatus_done (s : State) (d : Word) :
    (s.writeStatus d).done = (s.done && !d.getLsbD 1) := rfl
@[simp] theorem State.writeStatus_wdrop (s : State) (d : Word) :
    (s.writeStatus d).wdrop = (s.wdrop && !d.getLsbD 3) := rfl
@[simp] theorem State.writeStatus_errcode (s : State) (d : Word) : (s.writeStatus d).errcode = s.errcode := rfl
@[simp] theorem State.writeStatus_inputs (s : State) (d : Word) : (s.writeStatus d).inputs = s.inputs := rfl
@[simp] theorem State.writeStatus_results (s : State) (d : Word) : (s.writeStatus d).results = s.results := rfl
@[simp] theorem State.writeStatus_engine (s : State) (d : Word) : (s.writeStatus d).engine = s.engine := rfl
@[simp] theorem State.writeStatus_rst (s : State) (d : Word) : (s.writeStatus d).rst = s.rst := rfl
@[simp] theorem State.writeStatus_pending (s : State) (d : Word) : (s.writeStatus d).pending = s.pending := rfl
@[simp] theorem State.writeStatus_reply (s : State) (d : Word) : (s.writeStatus d).reply = s.reply := rfl

/-! ## `withReply` -/

@[simp] theorem State.withReply_irqEn (s : State) (r : BusReply) : (s.withReply r).irqEn = s.irqEn := rfl
@[simp] theorem State.withReply_done (s : State) (r : BusReply) : (s.withReply r).done = s.done := rfl
@[simp] theorem State.withReply_wdrop (s : State) (r : BusReply) : (s.withReply r).wdrop = s.wdrop := rfl
@[simp] theorem State.withReply_errcode (s : State) (r : BusReply) : (s.withReply r).errcode = s.errcode := rfl
@[simp] theorem State.withReply_inputs (s : State) (r : BusReply) : (s.withReply r).inputs = s.inputs := rfl
@[simp] theorem State.withReply_results (s : State) (r : BusReply) : (s.withReply r).results = s.results := rfl
@[simp] theorem State.withReply_engine (s : State) (r : BusReply) : (s.withReply r).engine = s.engine := rfl
@[simp] theorem State.withReply_rst (s : State) (r : BusReply) : (s.withReply r).rst = s.rst := rfl
@[simp] theorem State.withReply_pending (s : State) (r : BusReply) : (s.withReply r).pending = s.pending := rfl
@[simp] theorem State.withReply_reply (s : State) (r : BusReply) : (s.withReply r).reply = some r := rfl

/-! ## `withPending` -/

@[simp] theorem State.withPending_irqEn (s : State) (es : List Event) : (s.withPending es).irqEn = s.irqEn := rfl
@[simp] theorem State.withPending_done (s : State) (es : List Event) : (s.withPending es).done = s.done := rfl
@[simp] theorem State.withPending_wdrop (s : State) (es : List Event) : (s.withPending es).wdrop = s.wdrop := rfl
@[simp] theorem State.withPending_errcode (s : State) (es : List Event) :
    (s.withPending es).errcode = s.errcode := rfl
@[simp] theorem State.withPending_inputs (s : State) (es : List Event) : (s.withPending es).inputs = s.inputs := rfl
@[simp] theorem State.withPending_results (s : State) (es : List Event) :
    (s.withPending es).results = s.results := rfl
@[simp] theorem State.withPending_engine (s : State) (es : List Event) : (s.withPending es).engine = s.engine := rfl
@[simp] theorem State.withPending_rst (s : State) (es : List Event) : (s.withPending es).rst = s.rst := rfl
@[simp] theorem State.withPending_pending (s : State) (es : List Event) : (s.withPending es).pending = es := rfl
@[simp] theorem State.withPending_reply (s : State) (es : List Event) : (s.withPending es).reply = s.reply := rfl

/-! ## `tick` -/

@[simp] theorem State.tick_irqEn (s : State) : s.tick.irqEn = s.irqEn := rfl
@[simp] theorem State.tick_done (s : State) : s.tick.done = s.done := rfl
@[simp] theorem State.tick_wdrop (s : State) : s.tick.wdrop = s.wdrop := rfl
@[simp] theorem State.tick_errcode (s : State) : s.tick.errcode = s.errcode := rfl
@[simp] theorem State.tick_inputs (s : State) : s.tick.inputs = s.inputs := rfl
@[simp] theorem State.tick_results (s : State) : s.tick.results = s.results := rfl
@[simp] theorem State.tick_engine (s : State) : s.tick.engine = s.engine.tick := rfl
@[simp] theorem State.tick_rst (s : State) : s.tick.rst = s.rst := rfl
@[simp] theorem State.tick_pending (s : State) : s.tick.pending = s.pending := rfl
@[simp] theorem State.tick_reply (s : State) : s.tick.reply = s.reply := rfl

/-! ## `startCommand` -/

@[simp] theorem State.startCommand_irqEn (s : State) (op : Word) : (s.startCommand op).irqEn = s.irqEn := rfl
@[simp] theorem State.startCommand_done (s : State) (op : Word) : (s.startCommand op).done = false := rfl
@[simp] theorem State.startCommand_wdrop (s : State) (op : Word) : (s.startCommand op).wdrop = s.wdrop := rfl
@[simp] theorem State.startCommand_errcode (s : State) (op : Word) : (s.startCommand op).errcode = .noError := rfl
@[simp] theorem State.startCommand_inputs (s : State) (op : Word) : (s.startCommand op).inputs = s.inputs := rfl
@[simp] theorem State.startCommand_results (s : State) (op : Word) : (s.startCommand op).results = Results.zero := rfl
@[simp] theorem State.startCommand_engine (s : State) (op : Word) :
    (s.startCommand op).engine = .busy op s.inputs 1 := rfl
@[simp] theorem State.startCommand_rst (s : State) (op : Word) : (s.startCommand op).rst = false := rfl
@[simp] theorem State.startCommand_pending (s : State) (op : Word) : (s.startCommand op).pending = s.pending := rfl
@[simp] theorem State.startCommand_reply (s : State) (op : Word) : (s.startCommand op).reply = s.reply := rfl

/-! ## `heldInReset` -/

@[simp] theorem heldInReset_irqEn (es : List Event) : (heldInReset es).irqEn = State.reset.irqEn := rfl
@[simp] theorem heldInReset_done (es : List Event) : (heldInReset es).done = State.reset.done := rfl
@[simp] theorem heldInReset_wdrop (es : List Event) : (heldInReset es).wdrop = State.reset.wdrop := rfl
@[simp] theorem heldInReset_errcode (es : List Event) : (heldInReset es).errcode = State.reset.errcode := rfl
@[simp] theorem heldInReset_inputs (es : List Event) : (heldInReset es).inputs = State.reset.inputs := rfl
@[simp] theorem heldInReset_results (es : List Event) : (heldInReset es).results = State.reset.results := rfl
@[simp] theorem heldInReset_engine (es : List Event) : (heldInReset es).engine = State.reset.engine := rfl
@[simp] theorem heldInReset_rst (es : List Event) : (heldInReset es).rst = true := rfl
@[simp] theorem heldInReset_pending (es : List Event) : (heldInReset es).pending = es := rfl
@[simp] theorem heldInReset_reply (es : List Event) : (heldInReset es).reply = State.reset.reply := rfl

/-! ## `releasedFromReset` -/

@[simp] theorem releasedFromReset_irqEn (es : List Event) : (releasedFromReset es).irqEn = State.reset.irqEn := rfl
@[simp] theorem releasedFromReset_done (es : List Event) : (releasedFromReset es).done = State.reset.done := rfl
@[simp] theorem releasedFromReset_wdrop (es : List Event) : (releasedFromReset es).wdrop = State.reset.wdrop := rfl
@[simp] theorem releasedFromReset_errcode (es : List Event) : (releasedFromReset es).errcode = State.reset.errcode := rfl
@[simp] theorem releasedFromReset_inputs (es : List Event) : (releasedFromReset es).inputs = State.reset.inputs := rfl
@[simp] theorem releasedFromReset_results (es : List Event) : (releasedFromReset es).results = State.reset.results := rfl
@[simp] theorem releasedFromReset_engine (es : List Event) : (releasedFromReset es).engine = State.reset.engine := rfl
@[simp] theorem releasedFromReset_rst (es : List Event) : (releasedFromReset es).rst = State.reset.rst := rfl
@[simp] theorem releasedFromReset_pending (es : List Event) : (releasedFromReset es).pending = es := rfl
@[simp] theorem releasedFromReset_reply (es : List Event) : (releasedFromReset es).reply = State.reset.reply := rfl

end Sys2Proof.Machine
end

