-- ==== Sys2Proof/Laws/Bytes.lean ====
section
/-! SUPPORT. Byte lanes, byte buffers and big-endian numbers: what packing and unpacking give back. -/

namespace Sys2Proof

theorem lane_getLsbD (w : Word) (j i : Nat) : (lane w j).getLsbD i = (decide (i < 8) && w.getLsbD (8 * j + i)) := by
  simp [lane]

theorem ofLanes_wordBytes (w : Word) : ofLanes (lane w 0) (lane w 1) (lane w 2) (lane w 3) = w := by
  apply BitVec.eq_of_getLsbD_eq
  intro i hi
  simp only [ofLanes, BitVec.getLsbD_append, lane_getLsbD]
  rcases Nat.lt_or_ge i 8 with h | h
  · simp [h]
  · rcases Nat.lt_or_ge i 16 with h2 | h2
    · have : i - 8 < 8 := by omega
      have e : 8 + (i - 8) = i := by omega
      simp [Nat.not_lt.2 h, this, e]
    · rcases Nat.lt_or_ge i 24 with h3 | h3
      · have a : ¬ i - 8 < 8 := by omega
        have b : i - 8 - 8 < 8 := by omega
        have e : 16 + (i - 8 - 8) = i := by omega
        simp [Nat.not_lt.2 h, a, b, e]
      · have a : ¬ i - 8 < 8 := by omega
        have b : ¬ i - 8 - 8 < 8 := by omega
        have c : i - 8 - 8 - 8 < 8 := by omega
        have e : 24 + (i - 8 - 8 - 8) = i := by omega
        simp [Nat.not_lt.2 h, a, b, c, e]

theorem lane_ofLanes_0 (b0 b1 b2 b3 : Byte) : lane (ofLanes b0 b1 b2 b3) 0 = b0 := by
  apply BitVec.eq_of_getLsbD_eq
  intro i hi
  simp only [lane_getLsbD, ofLanes, BitVec.getLsbD_append]
  simp [hi]

theorem lane_ofLanes_1 (b0 b1 b2 b3 : Byte) : lane (ofLanes b0 b1 b2 b3) 1 = b1 := by
  apply BitVec.eq_of_getLsbD_eq
  intro i hi
  have a : ¬ 8 + i < 8 := by omega
  simp only [lane_getLsbD, ofLanes, BitVec.getLsbD_append]
  simp [hi, a]

theorem lane_ofLanes_2 (b0 b1 b2 b3 : Byte) : lane (ofLanes b0 b1 b2 b3) 2 = b2 := by
  apply BitVec.eq_of_getLsbD_eq
  intro i hi
  have a : ¬ 16 + i < 8 := by omega
  have b : ¬ 16 + i - 8 < 8 := by omega
  have c : 16 + i - 8 - 8 = i := by omega
  simp only [lane_getLsbD, ofLanes, BitVec.getLsbD_append]
  simp [hi, a, b, c]

theorem lane_ofLanes_3 (b0 b1 b2 b3 : Byte) : lane (ofLanes b0 b1 b2 b3) 3 = b3 := by
  apply BitVec.eq_of_getLsbD_eq
  intro i hi
  have a : ¬ 24 + i < 8 := by omega
  have b : ¬ 24 + i - 8 < 8 := by omega
  have c : ¬ 24 + i - 8 - 8 < 8 := by omega
  have d : 24 + i - 8 - 8 - 8 = i := by omega
  simp only [lane_getLsbD, ofLanes, BitVec.getLsbD_append]
  simp [hi, a, b, c, d]

namespace Machine

theorem packBuffer_get? (n : Nat) (bytes : List Byte) (k : Nat) (hk : k < n) :
    (packBuffer n bytes)[k]? = some (packWord bytes k) := by
  simp [packBuffer, hk]

/-- R44: byte `i` of a packed buffer is byte `i` of the packed string, and 0x00 past its end. -/
theorem bufferByte_packBuffer (n : Nat) (bytes : List Byte) (i : Nat) (hi : i < 4 * n) :
    bufferByte (packBuffer n bytes) i = bytes.getD i 0 := by
  have hk : i / 4 < n := by omega
  have hm : i % 4 = 0 ∨ i % 4 = 1 ∨ i % 4 = 2 ∨ i % 4 = 3 := by omega
  rw [bufferByte, packBuffer_get? n bytes _ hk, Option.getD_some, packWord]
  rcases hm with h | h | h | h
  · rw [h, lane_ofLanes_0]; congr 1; omega
  · rw [h, lane_ofLanes_1]; congr 1; omega
  · rw [h, lane_ofLanes_2]; congr 1; omega
  · rw [h, lane_ofLanes_3]; congr 1; omega

/-- R44: outside a buffer there is no register, so its bytes read 0x00. -/
theorem bufferByte_outside {n : Nat} (buf : Vector Word n) (i : Nat) (hi : 4 * n ≤ i) : bufferByte buf i = 0 := by
  have h : ¬ i / 4 < n := by omega
  simp [bufferByte, h, lane]

/-- A buffer of zero words holds zero bytes. -/
theorem bufferByte_zero (n i : Nat) : bufferByte (Vector.replicate n (0 : Word)) i = 0 := by
  rcases Nat.lt_or_ge (i / 4) n with h | h
  · simp [bufferByte, h, lane]
  · exact bufferByte_outside _ _ (by omega)

/-- The lane of a word register of a buffer is a byte of the buffer. -/
theorem lane_getElem {n : Nat} (buf : Vector Word n) (k : Nat) (hk : k < n) (j : Nat) (hj : j < 4) :
    lane buf[k] j = bufferByte buf (4 * k + j) := by
  have h1 : (4 * k + j) / 4 = k := by omega
  have h2 : (4 * k + j) % 4 = j := by omega
  simp [bufferByte, h1, h2, hk]

@[simp] theorem beBytes_length (n v : Nat) : (beBytes n v).length = n := by simp [beBytes]

@[simp] theorem be64_length (c : DWord) : (be64 c).length = 8 := by simp [be64]

theorem beNat_append (xs ys : List Byte) : beNat (xs ++ ys) = beNat xs * 256 ^ ys.length + beNat ys := by
  have aux : ∀ (ys : List Byte) (a : Nat),
      ys.foldl (fun acc b => acc * 256 + b.toNat) a = a * 256 ^ ys.length + beNat ys := by
    intro ys
    induction ys with
    | nil => intro a; simp [beNat]
    | cons y ys ih =>
      intro a
      simp only [beNat, List.foldl_cons, List.length_cons] at *
      rw [ih, ih (0 * 256 + y.toNat)]
      ring
  simp only [beNat, List.foldl_append]
  exact aux ys _

/-- R12, R182: the number a big-endian encoding spells is the number that was encoded. -/
theorem beNat_beBytes (n v : Nat) (h : v < 256 ^ n) : beNat (beBytes n v) = v := by
  have gen : ∀ n, ∀ v, beNat (beBytes n v) = v % 256 ^ n := by
    intro n
    induction n with
    | zero => intro v; simp [beBytes, beNat, Nat.mod_one]
    | succ n ih =>
      intro v
      have split : beBytes (n + 1) v = beBytes n (v / 256) ++ [BitVec.ofNat 8 v] := by
        simp only [beBytes, List.range_succ, List.map_append, List.map_cons, List.map_nil]
        congr 1
        · apply List.map_congr_left
          intro i hi
          have hi : i < n := List.mem_range.1 hi
          congr 1
          have e : 8 * (n + 1 - 1 - i) = 8 + 8 * (n - 1 - i) := by omega
          rw [e, Nat.shiftRight_add]
          simp [Nat.shiftRight_eq_div_pow]
        · simp
      rw [split, beNat_append, ih]
      have : beNat [BitVec.ofNat 8 v] = v % 256 := by simp [beNat]
      rw [this, List.length_singleton, pow_one, pow_succ]
      rw [Nat.mul_comm (256 ^ n) 256, Nat.mod_mul]
      omega
  rw [gen, Nat.mod_eq_of_lt h]

end Machine

end Sys2Proof
end

