-- ==== Sys2Proof/Laws/Decode.lean ====
section
/-! SUPPORT. What the decoder answers on each word. -/

namespace Sys2Proof

/-- A word is its MBZ field over its OPCODE (R90). -/
theorem word_eq_fields (w : Word) : w = w.extractLsb' 8 24 ++ w.extractLsb' 0 8 := by
  apply BitVec.eq_of_getLsbD_eq
  intro i hi
  simp only [BitVec.getLsbD_append, BitVec.getLsbD_extractLsb']
  rcases Nat.lt_or_ge i 8 with h | h
  · simp [h]
  · have a : i - 8 < 24 := by omega
    have e : 8 + (i - 8) = i := by omega
    simp [Nat.not_lt.2 h, a, e]

/-- With MBZ = 0 a word is its OPCODE. -/
theorem word_of_opcode (w : Word) (hm : w.extractLsb' 8 24 = 0) (n : Nat) (hn : (w.extractLsb' 0 8).toNat = n) :
    w = (0 : BitVec 24) ++ BitVec.ofNat 8 n := by
  have h : w.extractLsb' 0 8 = BitVec.ofNat 8 n := by
    apply BitVec.eq_of_toNat_eq
    have := (w.extractLsb' 0 8).isLt
    rw [hn, BitVec.toNat_ofNat, Nat.mod_eq_of_lt (by omega)]
  conv => lhs; rw [word_eq_fields w, hm, h]

/-- R92, R94: the five command words decode to the five commands, and every other word is invalid. -/
theorem decodeWord_eq (w : Word) : decodeWord w =
    if w = 1#32 then .decode else if w = 2#32 then .counter else if w = 3#32 then .hotp else if w = 4#32 then .totp
    else if w = 5#32 then .clear else .invalid w := by
  by_cases hm : w.extractLsb' 8 24 = 0
  · have key := word_of_opcode w hm _ rfl
    rcases hn : (w.extractLsb' 0 8).toNat with _ | _ | _ | _ | _ | _ | n
    all_goals rw [hn] at key
    · subst key; decide
    · subst key; decide
    · subst key; decide
    · subst key; decide
    · subst key; decide
    · subst key; decide
    · have ne : ∀ k : Nat, k < 6 → w ≠ BitVec.ofNat 32 k := by
        intro k hk h
        rw [h] at hn
        have e : ((BitVec.ofNat 32 k).extractLsb' 0 8).toNat = k := by
          simp [BitVec.extractLsb'_toNat]; omega
        omega
      have n1 := ne 1 (by omega)
      have n2 := ne 2 (by omega)
      have n3 := ne 3 (by omega)
      have n4 := ne 4 (by omega)
      have n5 := ne 5 (by omega)
      simp only [decodeWord, hm, hn]
      simp [n1, n2, n3, n4, n5]
  · have ne : ∀ k : Word, k.extractLsb' 8 24 = 0 → w ≠ k := fun k hk h => hm (h ▸ hk)
    have n1 := ne 1#32 (by decide)
    have n2 := ne 2#32 (by decide)
    have n3 := ne 3#32 (by decide)
    have n4 := ne 4#32 (by decide)
    have n5 := ne 5#32 (by decide)
    simp only [decodeWord, ne_eq, hm, not_false_eq_true, if_true, n1, n2, n3, n4, n5, if_false]

/-- The first word of a byte string of at least four bytes decides what it decodes to. -/
theorem decodeBytes_wordBytes (w : Word) (rest : List Byte) :
    decodeBytes (wordBytes w ++ rest) = .ok (decodeWord w, rest) := by
  show decodeBytes (lane w 0 :: lane w 1 :: lane w 2 :: lane w 3 :: rest) = _
  rw [decodeBytes, ofLanes_wordBytes]

end Sys2Proof
end

