-- ==== Sys2Proof/Laws/RegisterMap.lean ====
section
/-! SUPPORT. What a host reads after an update of the state. -/

namespace Sys2Proof.Machine

/-- What a host reads depends on `CTRL`, `STATUS`, the input group and the result group only. -/
theorem readReg_congr {s t : State} (hc : t.ctrlWord = s.ctrlWord) (hs : t.statusWord = s.statusWord)
    (hi : t.inputs = s.inputs) (hr : t.results = s.results) (r : Reg) : readReg t r = readReg s r := by
  cases r <;> simp only [readReg, hc, hs, hi, hr]

/-- Apart from `STATUS`, what a host reads depends on `CTRL`, the input group and the result group only. -/
theorem readReg_congr' {s t : State} (hc : t.irqEn = s.irqEn) (hi : t.inputs = s.inputs)
    (hr : t.results = s.results) (r : Reg) (h : r ≠ .status) : readReg t r = readReg s r := by
  cases r <;> first | exact absurd rfl h | simp only [readReg, State.ctrlWord, hc, hi, hr]

/-- The `STATUS` word depends on the flags only (R26). -/
theorem statusWord_congr {s t : State} (hb : t.busy = s.busy) (hd : t.done = s.done) (hw : t.wdrop = s.wdrop)
    (he : t.errcode = s.errcode) : t.statusWord = s.statusWord := by
  simp only [State.statusWord, State.err, hb, hd, hw, he]

/-- R29: `STATUS.ERR` is 1 exactly when a code other than NONE is held. -/
@[simp] theorem State.err_iff (s : State) : s.err = true ↔ s.errcode ≠ .noError := by
  cases h : s.errcode <;> simp [State.err, ErrCode.code, h]

/-- R230: the codes of distinct errors differ. -/
theorem ErrCode.code_injective : Function.Injective ErrCode.code := by
  intro a b h
  cases a <;> cases b <;> first | rfl | exact absurd h (by decide)

/-- The reset state with a schedule: what every register reads does not depend on `rst` or the schedule. -/
theorem readReg_heldInReset (es : List Event) (r : Reg) : readReg (heldInReset es) r = readReg State.reset r :=
  readReg_congr rfl rfl rfl rfl r

/-- R22, R23, R25: `ID` and `VERSION` are constants and `CMD` reads 0. -/
@[simp] theorem readReg_constants (s : State) :
    readReg s .id = 0x50544F54 ∧ readReg s .version = 0x00010000 ∧ readReg s .cmd = 0 := ⟨rfl, rfl, rfl⟩

/-- R32 to R37, R45: an input register reads back what was written to it, `CONFIG` through its mask, and no other
register of the group changes. -/
theorem readReg_write (s : State) (r r' : Reg) (d : Word) (hr : r.isInput = true) (hc : r ≠ .cmd) (h : r' ≠ .status) :
    readReg { s with inputs := s.inputs.write r d } r' =
      if r' = r then (if r = .config then d &&& configMask else d) else readReg s r' := by
  cases r <;> first | (simp [Reg.isInput] at hr; done) | exact absurd rfl hc | skip
  case secret k =>
    cases r' <;> first
      | exact absurd rfl h
      | (simp [readReg, Inputs.write, State.ctrlWord]; done)
      | skip
    case secret j =>
      show (s.inputs.secret.set k.val d)[j.val] = if Reg.secret j = Reg.secret k then d else s.inputs.secret[j.val]
      by_cases e : j = k
      · subst e; simp
      · have : k.val ≠ j.val := fun h => e (Fin.ext h.symm)
        simp [e, this]
  all_goals cases r' <;> first
    | exact absurd rfl h
    | simp [readReg, Inputs.write, State.ctrlWord]

/-- No write to the input group changes the reserved bits of `CONFIG` (R32). -/
theorem write_config (inp : Inputs) (r : Reg) (d : Word) :
    (inp.write r d).config = if r = .config then d &&& configMask else inp.config := by
  cases r <;> simp [Inputs.write]

end Sys2Proof.Machine
end

