-- ==== Sys2Proof/Laws/Ops.lean ====
section
/-! SUPPORT. What each shared operation can do, said once: completion, a host write, a bus access, a cycle of the port,
and the step. -/

namespace Sys2Proof.Machine

/-! ## Completion -/

/-- Every arm of `exec` is the completion of a command with its `Execute` (R56, R95). -/
theorem exec_eq_complete (i : Instr) (s : State) : exec i s = complete (execute i) s := by
  cases i <;> rfl

/-- R56: while a command runs, completion answers a next state, from the snapshot. -/
theorem complete_busy {f : Inputs → Except ErrCode Writes} {s : State} {op : Word} {snap : Inputs} {lat : Nat}
    (h : s.engine = .busy op snap lat) : complete f s = .next (s.finish (f snap)) := by
  simp only [complete, h]

/-- R56: no completion while idle. -/
theorem complete_idle {f : Inputs → Except ErrCode Writes} {s : State} (h : s.engine = .idle) :
    complete f s = .refused .noCommandRunning := by
  simp only [complete, h]

/-- The one way a completion answers a next state. -/
theorem complete_next {f : Inputs → Except ErrCode Writes} {s t : State} (h : complete f s = .next t) :
    ∃ op snap lat, s.engine = .busy op snap lat ∧ t = s.finish (f snap) := by
  cases he : s.engine with
  | idle => rw [complete_idle he] at h; cases h
  | busy op snap lat =>
    rw [complete_busy he] at h
    cases h
    exact ⟨op, snap, lat, rfl, rfl⟩

/-- The one way a command answers a next state. -/
theorem exec_next {i : Instr} {s t : State} (h : exec i s = .next t) :
    ∃ op snap lat, s.engine = .busy op snap lat ∧ t = s.finish (execute i snap) :=
  complete_next (exec_eq_complete i s ▸ h)

/-- While a command runs, `exec` answers a next state. -/
theorem exec_busy {s : State} {op : Word} {snap : Inputs} {lat : Nat} (i : Instr)
    (h : s.engine = .busy op snap lat) : exec i s = .next (s.finish (execute i snap)) := by
  rw [exec_eq_complete, complete_busy h]

/-- R231: a failed command writes ERRCODE, DONE and the phase. -/
@[simp] theorem finish_error (s : State) (e : ErrCode) : s.finish (.error e) = s.endCommand e := rfl

/-- R56: a successful command writes its results, then ERRCODE, DONE and the phase. -/
@[simp] theorem finish_ok (s : State) (w : Writes) : s.finish (.ok w) = (s.applyWrites w).endCommand .noError := rfl

@[simp] theorem applyWrites_key (s : State) (k : List Byte) : s.applyWrites { key := some k } = s.writeKey k := rfl

@[simp] theorem applyWrites_counter (s : State) (c : DWord) :
    s.applyWrites { counter := some c } = s.writeCounter c := rfl

@[simp] theorem applyWrites_otp (s : State) (o : OtpResult) : s.applyWrites { otp := some o } = s.writeOtp o := rfl

@[simp] theorem applyWrites_counter_otp (s : State) (c : DWord) (o : OtpResult) :
    s.applyWrites { counter := some c, otp := some o } = (s.writeCounter c).writeOtp o := rfl

@[simp] theorem applyWrites_wipe (s : State) : s.applyWrites { wipe := true } = s.wipeInputs := rfl

/-- What `writes` can touch: the input group, the result group and WDROP. -/
theorem applyWrites_frame (s : State) (w : Writes) :
    (s.applyWrites w).irqEn = s.irqEn ∧ (s.applyWrites w).rst = s.rst ∧ (s.applyWrites w).pending = s.pending ∧
      (s.applyWrites w).reply = s.reply := by
  obtain ⟨k, c, o, w⟩ := w
  cases k <;> cases c <;> cases o <;> cases w <;> exact ⟨rfl, rfl, rfl, rfl⟩

/-- R56: what every completion does, whatever its outcome. -/
theorem finish_frame (s : State) (out : Except ErrCode Writes) :
    (s.finish out).irqEn = s.irqEn ∧ (s.finish out).rst = s.rst ∧ (s.finish out).pending = s.pending ∧
      (s.finish out).reply = s.reply ∧ (s.finish out).engine = .idle ∧ (s.finish out).done = true := by
  cases out with
  | error e => exact ⟨rfl, rfl, rfl, rfl, rfl, rfl⟩
  | ok w =>
    obtain ⟨h1, h2, h3, h4⟩ := applyWrites_frame s w
    exact ⟨h1, h2, h3, h4, rfl, rfl⟩

/-! ## Host writes (R270) -/

theorem hostWrite_readOnly {s : State} {r : Reg} {d : Word} {l : Nat} (h : r.isReadOnly = true) :
    s.hostWrite r d l = s := by
  simp only [State.hostWrite, h, if_true]

@[simp] theorem hostWrite_ctrl (s : State) (d : Word) (l : Nat) : s.hostWrite .ctrl d l = s.writeCtrl d := rfl

@[simp] theorem hostWrite_status (s : State) (d : Word) (l : Nat) : s.hostWrite .status d l = s.writeStatus d := rfl

/-- R270: an input-group write while busy is dropped. -/
theorem hostWrite_busy {s : State} {r : Reg} {d : Word} {l : Nat} (h : r.isInput = true) (hb : s.busy = true) :
    s.hostWrite r d l = { s with wdrop := true } := by
  cases r <;> first
    | (simp [Reg.isInput] at h; done)
    | simp [State.hostWrite, Reg.isReadOnly, Reg.isResult, hb]

/-- R55, R270: a `CMD` write while idle is accepted. -/
theorem hostWrite_cmd {s : State} {d : Word} {l : Nat} (hb : s.busy = false) :
    s.hostWrite .cmd d l = s.accept d l := by
  simp [State.hostWrite, Reg.isReadOnly, Reg.isResult, hb]

/-- R270: any other input-group write while idle is stored. -/
theorem hostWrite_input {s : State} {r : Reg} {d : Word} {l : Nat} (h : r.isInput = true) (hc : r ≠ .cmd)
    (hb : s.busy = false) : s.hostWrite r d l = { s with inputs := s.inputs.write r d } := by
  cases r <;> first
    | (simp [Reg.isInput] at h; done)
    | exact absurd rfl hc
    | simp [State.hostWrite, Reg.isReadOnly, Reg.isResult, hb]

/-- Every register is read-only, `CTRL`, `STATUS`, or of the input group (R21). -/
theorem Reg.kinds (r : Reg) : r.isReadOnly = true ∨ r = .ctrl ∨ r = .status ∨ r.isInput = true := by
  cases r <;> simp [Reg.isReadOnly, Reg.isResult, Reg.isInput]

/-- Everything a host write can do (R270). -/
theorem hostWrite_cases (s : State) (r : Reg) (d : Word) (l : Nat) :
    (r.isReadOnly = true ∧ s.hostWrite r d l = s) ∨
    (r = .ctrl ∧ s.hostWrite r d l = s.writeCtrl d) ∨
    (r = .status ∧ s.hostWrite r d l = s.writeStatus d) ∨
    (r.isInput = true ∧ s.busy = true ∧ s.hostWrite r d l = { s with wdrop := true }) ∨
    (r = .cmd ∧ s.busy = false ∧ s.hostWrite r d l = s.accept d l) ∨
    (r.isInput = true ∧ r ≠ .cmd ∧ s.busy = false ∧
      s.hostWrite r d l = { s with inputs := s.inputs.write r d }) := by
  rcases r.kinds with h | h | h | h
  · exact .inl ⟨h, hostWrite_readOnly h⟩
  · subst h; exact .inr (.inl ⟨rfl, rfl⟩)
  · subst h; exact .inr (.inr (.inl ⟨rfl, rfl⟩))
  · cases hb : s.busy with
    | true => exact .inr (.inr (.inr (.inl ⟨h, rfl, hostWrite_busy h hb⟩)))
    | false =>
      by_cases hc : r = .cmd
      · subst hc; exact .inr (.inr (.inr (.inr (.inl ⟨rfl, rfl, hostWrite_cmd hb⟩))))
      · exact .inr (.inr (.inr (.inr (.inr ⟨h, hc, rfl, hostWrite_input h hc hb⟩))))

/-- A host write leaves the port and the level of `rst` alone. -/
theorem hostWrite_port (s : State) (r : Reg) (d : Word) (l : Nat) :
    (s.hostWrite r d l).rst = s.rst ∧ (s.hostWrite r d l).pending = s.pending ∧
      (s.hostWrite r d l).reply = s.reply := by
  rcases hostWrite_cases s r d l with ⟨-, h⟩ | ⟨-, h⟩ | ⟨-, h⟩ | ⟨-, -, h⟩ | ⟨-, -, h⟩ | ⟨-, -, -, h⟩ <;>
    rw [h] <;> exact ⟨rfl, rfl, rfl⟩

/-! ## Bus accesses (R70 to R75) -/

/-- Everything the block does with one access: it answers, and only a full-word write to a register can change anything
else. -/
theorem serve_cases (s : State) (a : Access) (l : Nat) :
    (a.kind = .read ∧ a.reg = none ∧ s.serve a l = s.withReply (.read 0 .error)) ∨
    (∃ r, a.kind = .read ∧ a.reg = some r ∧ s.serve a l = s.withReply (.read (readReg s r) .okay)) ∨
    (∃ d st, a.kind = .write d st ∧ (a.reg = none ∨ st ≠ 0b1111) ∧ s.serve a l = s.withReply (.write .error)) ∨
    (∃ r d, a.kind = .write d 0b1111 ∧ a.reg = some r ∧
      s.serve a l = (s.hostWrite r d l).withReply (.write .okay)) := by
  cases hr : a.reg with
  | none =>
    cases hk : a.kind with
    | read => exact .inl ⟨rfl, rfl, by simp only [State.serve, hr, hk]⟩
    | write d st => exact .inr (.inr (.inl ⟨d, st, rfl, .inl rfl, by simp only [State.serve, hr, hk]⟩))
  | some r =>
    cases hk : a.kind with
    | read => exact .inr (.inl ⟨r, rfl, rfl, by simp only [State.serve, hr, hk]⟩)
    | write d st =>
      by_cases hs : st = 0b1111
      · subst hs
        exact .inr (.inr (.inr ⟨r, d, rfl, rfl, by simp only [State.serve, hr, hk, if_true]⟩))
      · exact .inr (.inr (.inl ⟨d, st, rfl, .inr hs, by simp only [State.serve, hr, hk, hs, if_false]⟩))

/-! ## The step -/

/-- R260: while `rst` is asserted a step is a reset cycle. -/
theorem step_inReset {s : State} (h : s.rst = true) : step s = s.resetCycle := by
  simp only [step, h, if_true]

/-- R56, R95: a completion that is due runs the accepted word. -/
theorem step_due {s : State} {op : Word} {snap : Inputs} {lat : Nat} (hr : s.rst = false)
    (he : s.engine = .busy op snap lat) (hl : lat ≤ 1) : step s = exec (decodeWord op) s := by
  simp [step, hr, he, Engine.due, hl]

/-- R84: otherwise a cycle passes and the port serves what arrives next. -/
theorem step_port {s : State} (hr : s.rst = false) (hd : s.engine.due = none) :
    step s = .next s.tick.portCycle := by
  simp [step, hr, hd]

theorem due_none_of_idle {e : Engine} (h : e = .idle) : e.due = none := by rw [h]; rfl

theorem due_none_of_lat {e : Engine} {op : Word} {snap : Inputs} {lat : Nat} (h : e = .busy op snap lat)
    (hl : 2 ≤ lat) : e.due = none := by
  have : ¬ lat ≤ 1 := by omega
  simp [h, Engine.due, this]

/-- The one way a completion is due. -/
theorem due_some {e : Engine} {op : Word} (h : e.due = some op) : ∃ snap lat, e = .busy op snap lat ∧ lat ≤ 1 := by
  cases e with
  | idle => cases h
  | busy op' snap lat =>
    by_cases hl : lat ≤ 1
    · simp only [Engine.due, hl, if_true, Option.some.injEq] at h
      exact ⟨snap, lat, by rw [h], hl⟩
    · simp [Engine.due, hl] at h

/-- Everything a step can do. -/
theorem step_cases (s : State) :
    (s.rst = true ∧ step s = s.resetCycle) ∨
    (∃ op snap lat, s.rst = false ∧ s.engine = .busy op snap lat ∧ lat ≤ 1 ∧
      step s = .next (s.finish (execute (decodeWord op) snap))) ∨
    (s.rst = false ∧ s.engine.due = none ∧ step s = .next s.tick.portCycle) := by
  cases hr : s.rst with
  | true => exact .inl ⟨rfl, step_inReset hr⟩
  | false =>
    cases hd : s.engine.due with
    | none => exact .inr (.inr ⟨rfl, rfl, step_port hr hd⟩)
    | some op =>
      obtain ⟨snap, lat, he, hl⟩ := due_some hd
      exact .inr (.inl ⟨op, snap, lat, rfl, he, hl, by rw [step_due hr he hl, exec_busy _ he]⟩)

/-- Everything a cycle of the port can do. -/
theorem portCycle_cases (s : State) :
    (s.pending = [] ∧ s.portCycle = s) ∨
    (∃ e es, s.pending = e :: es ∧ (e = .quiet ∨ e = .rst false) ∧ s.portCycle = s.withPending es) ∨
    (∃ a l es, s.pending = .access a l :: es ∧ s.portCycle = (s.withPending es).serve a l) ∨
    (∃ es, s.pending = .rst true :: es ∧ s.portCycle = heldInReset es) := by
  cases hp : s.pending with
  | nil => exact .inl ⟨rfl, by simp only [State.portCycle, hp]⟩
  | cons e es =>
    rcases e with ⟨a, l⟩ | _ | ⟨_ | _⟩
    · exact .inr (.inr (.inl ⟨a, l, es, rfl, by simp only [State.portCycle, hp]⟩))
    · exact .inr (.inl ⟨_, es, rfl, .inl rfl, by simp only [State.portCycle, hp]⟩)
    · exact .inr (.inl ⟨_, es, rfl, .inr rfl, by simp only [State.portCycle, hp]⟩)
    · exact .inr (.inr (.inr ⟨es, rfl, by simp only [State.portCycle, hp]⟩))

/-- Everything a reset cycle can do (R260, R263). -/
theorem resetCycle_cases (s : State) :
    (s.pending = [] ∧ s.resetCycle = .next (heldInReset [])) ∨
    (∃ e es, s.pending = e :: es ∧ (e = .quiet ∨ e = .rst true) ∧ s.resetCycle = .next (heldInReset es)) ∨
    (∃ a l es, s.pending = .access a l :: es ∧ s.resetCycle = .refused .accessDuringReset) ∨
    (∃ es, s.pending = .rst false :: es ∧ s.resetCycle = .next (releasedFromReset es)) := by
  cases hp : s.pending with
  | nil => exact .inl ⟨rfl, by simp only [State.resetCycle, hp]⟩
  | cons e es =>
    rcases e with ⟨a, l⟩ | _ | ⟨_ | _⟩
    · exact .inr (.inr (.inl ⟨a, l, es, rfl, by simp only [State.resetCycle, hp]⟩))
    · exact .inr (.inl ⟨_, es, rfl, .inl rfl, by simp only [State.resetCycle, hp]⟩)
    · exact .inr (.inr (.inr ⟨es, rfl, by simp only [State.resetCycle, hp]⟩))
    · exact .inr (.inl ⟨_, es, rfl, .inr rfl, by simp only [State.resetCycle, hp]⟩)

end Sys2Proof.Machine
end

