-- ==== Sys2Proof/Laws/Checks.lean ====
section
/-! SUPPORT. The validations of R92 as propositions, and what each `Execute` answers once they are decided. -/

namespace Sys2Proof.Machine

theorem legalLength_iff (inp : Inputs) : legalLength inp.length = true ↔ inp.V1 := by
  simp only [legalLength, Bool.and_eq_true, decide_eq_true_eq, and_assoc]
  exact Iff.rfl

theorem legalAlphabet_iff (inp : Inputs) : legalAlphabet inp = true ↔ inp.V2 := by
  simp [legalAlphabet, Inputs.V2, Inputs.secretChars, Option.isSome_iff_ne_none]

theorem checkLength_ok {inp : Inputs} (h : inp.V1) : checkLength inp = .ok () := by
  simp [checkLength, (legalLength_iff inp).2 h]

theorem checkLength_error {inp : Inputs} (h : ¬ inp.V1) : checkLength inp = .error .invalidSecretLength := by
  simp only [checkLength]; rw [if_neg (fun hh => h ((legalLength_iff inp).1 hh))]

theorem checkAlphabet_ok {inp : Inputs} (h : inp.V2) : checkAlphabet inp = .ok () := by
  simp [checkAlphabet, (legalAlphabet_iff inp).2 h]

theorem checkAlphabet_error {inp : Inputs} (h : ¬ inp.V2) : checkAlphabet inp = .error .invalidSecretAlphabet := by
  simp only [checkAlphabet]; rw [if_neg (fun hh => h ((legalAlphabet_iff inp).1 hh))]

theorem checkDigits_ok {inp : Inputs} (h : inp.V3) : checkDigits inp = .ok () := by
  exact if_pos h

theorem checkDigits_error {inp : Inputs} (h : ¬ inp.V3) : checkDigits inp = .error .invalidDigits := by
  exact if_neg h

theorem checkAlgorithm_ok {inp : Inputs} {alg : Alg} (h : inp.V4 alg) : checkAlgorithm inp = .ok alg := by
  have h' : Alg.ofField inp.algField = some alg := h
  simp only [checkAlgorithm, h']

theorem checkAlgorithm_error {inp : Inputs} (h : ∀ alg, ¬ inp.V4 alg) :
    checkAlgorithm inp = .error .invalidAlgorithm := by
  have h' : Alg.ofField inp.algField = none := Option.eq_none_iff_forall_ne_some.2 h
  simp only [checkAlgorithm, h']

/-- R161: only ALG = 3 fails V4. -/
theorem V4_fails_iff (inp : Inputs) : (∀ alg, ¬ inp.V4 alg) ↔ inp.algField = 3 := by
  have gen : ∀ f : BitVec 2, (∀ alg, Alg.ofField f ≠ some alg) ↔ f = 3 := by
    intro f
    have hf : f = 0 ∨ f = 1 ∨ f = 2 ∨ f = 3 := by revert f; decide
    rcases hf with h | h | h | h <;> subst h <;> simp [Alg.ofField]
  exact gen _

theorem checkPeriod_ok {inp : Inputs} (h : inp.V5) : checkPeriod inp = .ok () := by
  have : inp.periodSeconds ≠ 0 := fun h0 => h (BitVec.eq_of_toNat_eq h0)
  simp only [checkPeriod]; rw [if_neg this]

theorem checkPeriod_error {inp : Inputs} (h : ¬ inp.V5) : checkPeriod inp = .error .invalidPeriod := by
  have h0 : inp.period = 0 := by simpa [Inputs.V5] using h
  simp [checkPeriod, Inputs.periodSeconds, h0]

/-! ## `Execute`, once its checks are decided -/

theorem executeDecode_ok {inp : Inputs} (h1 : inp.V1) (h2 : inp.V2) :
    executeDecode inp = .ok { key := some (decodeSecret inp) } := by
  simp only [executeDecode, checkLength_ok h1, checkAlphabet_ok h2]; rfl

theorem executeDecode_V1 {inp : Inputs} (h : ¬ inp.V1) : executeDecode inp = .error .invalidSecretLength := by
  simp only [executeDecode, checkLength_error h]; rfl

theorem executeDecode_V2 {inp : Inputs} (h1 : inp.V1) (h : ¬ inp.V2) :
    executeDecode inp = .error .invalidSecretAlphabet := by
  simp only [executeDecode, checkLength_ok h1, checkAlphabet_error h]; rfl

theorem executeCounter_ok {inp : Inputs} (h : inp.V5) :
    executeCounter inp = .ok { counter := some (timeCounter inp) } := by
  simp only [executeCounter, checkPeriod_ok h]; rfl

theorem executeCounter_V5 {inp : Inputs} (h : ¬ inp.V5) : executeCounter inp = .error .invalidPeriod := by
  simp only [executeCounter, checkPeriod_error h]; rfl

theorem checkOtpInputs_ok {inp : Inputs} {alg : Alg} (h1 : inp.V1) (h2 : inp.V2) (h3 : inp.V3) (h4 : inp.V4 alg) :
    checkOtpInputs inp = .ok alg := by
  simp only [checkOtpInputs, checkLength_ok h1, checkAlphabet_ok h2, checkDigits_ok h3, checkAlgorithm_ok h4]; rfl

/-- R162: the first failing check of V1 to V4 decides the error. -/
theorem checkOtpInputs_cases (inp : Inputs) :
    (¬ inp.V1 ∧ checkOtpInputs inp = .error .invalidSecretLength) ∨
    (inp.V1 ∧ ¬ inp.V2 ∧ checkOtpInputs inp = .error .invalidSecretAlphabet) ∨
    (inp.V1 ∧ inp.V2 ∧ ¬ inp.V3 ∧ checkOtpInputs inp = .error .invalidDigits) ∨
    (inp.V1 ∧ inp.V2 ∧ inp.V3 ∧ (∀ alg, ¬ inp.V4 alg) ∧ checkOtpInputs inp = .error .invalidAlgorithm) ∨
    (∃ alg, inp.V1 ∧ inp.V2 ∧ inp.V3 ∧ inp.V4 alg ∧ checkOtpInputs inp = .ok alg) := by
  by_cases h1 : inp.V1
  · by_cases h2 : inp.V2
    · by_cases h3 : inp.V3
      · by_cases h4 : ∃ alg, inp.V4 alg
        · obtain ⟨alg, h4⟩ := h4
          exact .inr (.inr (.inr (.inr ⟨alg, h1, h2, h3, h4, checkOtpInputs_ok h1 h2 h3 h4⟩)))
        · have h4 : ∀ alg, ¬ inp.V4 alg := fun alg h => h4 ⟨alg, h⟩
          refine .inr (.inr (.inr (.inl ⟨h1, h2, h3, h4, ?_⟩)))
          simp only [checkOtpInputs, checkLength_ok h1, checkAlphabet_ok h2, checkDigits_ok h3,
            checkAlgorithm_error h4]; rfl
      · refine .inr (.inr (.inl ⟨h1, h2, h3, ?_⟩))
        simp only [checkOtpInputs, checkLength_ok h1, checkAlphabet_ok h2, checkDigits_error h3]; rfl
    · refine .inr (.inl ⟨h1, h2, ?_⟩)
      simp only [checkOtpInputs, checkLength_ok h1, checkAlphabet_error h2]; rfl
  · refine .inl ⟨h1, ?_⟩
    simp only [checkOtpInputs, checkLength_error h1]; rfl

theorem executeHotp_error {inp : Inputs} {e : ErrCode} (h : checkOtpInputs inp = .error e) :
    executeHotp inp = .error e := by
  simp only [executeHotp, h]; rfl

theorem executeHotp_ok {inp : Inputs} {alg : Alg} (h : checkOtpInputs inp = .ok alg) :
    executeHotp inp = .ok { otp := some (otpCore inp alg inp.counter) } := by
  simp only [executeHotp, h]; rfl

theorem executeTotp_error {inp : Inputs} {e : ErrCode} (h : checkOtpInputs inp = .error e) :
    executeTotp inp = .error e := by
  simp only [executeTotp, h]; rfl

theorem executeTotp_V5 {inp : Inputs} {alg : Alg} (h : checkOtpInputs inp = .ok alg) (h5 : ¬ inp.V5) :
    executeTotp inp = .error .invalidPeriod := by
  simp only [executeTotp, h, checkPeriod_error h5]; rfl

theorem executeTotp_ok {inp : Inputs} {alg : Alg} (h : checkOtpInputs inp = .ok alg) (h5 : inp.V5) :
    executeTotp inp = .ok { counter := some (timeCounter inp), otp := some (otpCore inp alg (timeCounter inp)) } := by
  simp only [executeTotp, h, checkPeriod_ok h5]; rfl

/-- Everything an `Execute` can answer: an error, or the writes of its command (R92). -/
theorem execute_cases (i : Instr) (inp : Inputs) :
    (∃ e, e ≠ .noError ∧ execute i inp = .error e) ∨
    (i = .decode ∧ ∃ k, execute i inp = .ok { key := some k }) ∨
    (i = .counter ∧ ∃ c, execute i inp = .ok { counter := some c }) ∨
    (i = .hotp ∧ ∃ o, execute i inp = .ok { otp := some o }) ∨
    (i = .totp ∧ ∃ c o, execute i inp = .ok { counter := some c, otp := some o }) ∨
    (i = .clear ∧ execute i inp = .ok { wipe := true }) := by
  cases i with
  | decode =>
    by_cases h1 : inp.V1
    · by_cases h2 : inp.V2
      · exact .inr (.inl ⟨rfl, _, executeDecode_ok h1 h2⟩)
      · exact .inl ⟨_, by simp, executeDecode_V2 h1 h2⟩
    · exact .inl ⟨_, by simp, executeDecode_V1 h1⟩
  | counter =>
    by_cases h1 : inp.V5
    · exact .inr (.inr (.inl ⟨rfl, _, executeCounter_ok h1⟩))
    · exact .inl ⟨_, by simp, executeCounter_V5 h1⟩
  | hotp =>
    rcases checkOtpInputs_cases inp with ⟨-, e⟩ | ⟨-, -, e⟩ | ⟨-, -, -, e⟩ | ⟨-, -, -, -, e⟩ | ⟨alg, -, -, -, -, e⟩
    · exact .inl ⟨_, by simp, executeHotp_error e⟩
    · exact .inl ⟨_, by simp, executeHotp_error e⟩
    · exact .inl ⟨_, by simp, executeHotp_error e⟩
    · exact .inl ⟨_, by simp, executeHotp_error e⟩
    · exact .inr (.inr (.inr (.inl ⟨rfl, _, executeHotp_ok e⟩)))
  | totp =>
    rcases checkOtpInputs_cases inp with ⟨-, e⟩ | ⟨-, -, e⟩ | ⟨-, -, -, e⟩ | ⟨-, -, -, -, e⟩ | ⟨alg, -, -, -, -, e⟩
    · exact .inl ⟨_, by simp, executeTotp_error e⟩
    · exact .inl ⟨_, by simp, executeTotp_error e⟩
    · exact .inl ⟨_, by simp, executeTotp_error e⟩
    · exact .inl ⟨_, by simp, executeTotp_error e⟩
    · by_cases h5 : inp.V5
      · exact .inr (.inr (.inr (.inr (.inl ⟨rfl, _, _, executeTotp_ok e h5⟩))))
      · exact .inl ⟨_, by simp, executeTotp_V5 e h5⟩
  | clear => exact .inr (.inr (.inr (.inr (.inr ⟨rfl, rfl⟩))))
  | invalid w => exact .inl ⟨_, by simp, rfl⟩

/-- A command run from its acceptance on completes from the input registers of that moment (R55, R56). -/
theorem runCommand_eq (s : State) (op : Word) :
    s.runCommand op = .next ((s.startCommand op).finish (execute (decodeWord op) s.inputs)) :=
  exec_busy _ rfl

end Sys2Proof.Machine
end

