-- ==== Sys2Proof/Laws/Hash.lean ====
section
/-! SUPPORT. Lengths in the hash functions and in HMAC. -/

namespace Sys2Proof.Machine

@[simp] theorem wordsToBytes_length {w : Nat} (ws : List (BitVec w)) :
    (wordsToBytes ws).length = ws.length * (w / 8) := by
  induction ws with
  | nil => simp [wordsToBytes]
  | cons x ws ih => simp only [wordsToBytes, List.flatMap_cons, List.length_append] at *; simp [ih]; ring

/-- R181: the digest length of each hash. -/
@[simp] theorem hash_length (alg : Alg) (m : List Byte) : (alg.hash m).length = alg.digestLen := by
  cases alg <;>
    simp [Alg.hash, Alg.digestLen, sha1Digest, sha256Digest, sha512Digest, Sha2State.words]

/-- R200: an HMAC has the length of the digest. -/
@[simp] theorem hmac_length (alg : Alg) (key m : List Byte) : (hmac alg key m).length = alg.digestLen := by
  simp [hmac]

@[simp] theorem xorPad_length (pad : Byte) (bs : List Byte) : (xorPad pad bs).length = bs.length := by
  simp [xorPad]

/-- R96: the digest length of every algorithm. -/
theorem digestLen_cases (alg : Alg) : alg.digestLen = 20 ∨ alg.digestLen = 32 ∨ alg.digestLen = 64 := by
  cases alg <;> simp [Alg.digestLen]

@[simp] theorem otpCore_digest (inp : Inputs) (alg : Alg) (c : DWord) :
    (otpCore inp alg c).digest = hmac alg (decodeSecret inp) (be64 c) := rfl

@[simp] theorem otpCore_chars_length (inp : Inputs) (alg : Alg) (c : DWord) :
    (otpCore inp alg c).chars.length = 8 := by simp [otpCore]

/-- R153: the truncation offset is 0..15. -/
theorem truncationOffset_lt (d : List Byte) : truncationOffset d < 16 := by
  have h : ∀ b : Byte, (b &&& 0x0F).toNat < 16 := by
    intro b
    rw [BitVec.toNat_and]
    exact Nat.lt_of_le_of_lt Nat.and_le_right (by decide)
  exact h _

end Sys2Proof.Machine
end

