-- ==== Sys2Proof/Laws/PerInstr.lean ====
section
/-! SUPPORT. Statements about every command as syntax, one lemma per constructor. -/

/-- The family `TableRow`: the command word of a well-formed command is that of its row of the opcode table, match under
mask; the row of the invalid words has mask 0 and stands behind the five others, so an invalid word is none of theirs. -/
def Sys2Proof.Laws.TableRow.Statement (i : Sys2Proof.Instr) : Prop :=
  i.wf = true →
    match i with
    | .decode => Sys2Proof.encode i &&& 0xFFFFFFFF = 0x00000001
    | .counter => Sys2Proof.encode i &&& 0xFFFFFFFF = 0x00000002
    | .hotp => Sys2Proof.encode i &&& 0xFFFFFFFF = 0x00000003
    | .totp => Sys2Proof.encode i &&& 0xFFFFFFFF = 0x00000004
    | .clear => Sys2Proof.encode i &&& 0xFFFFFFFF = 0x00000005
    | .invalid _ => ∀ m ∈ [1, 2, 3, 4, 5], Sys2Proof.encode i &&& 0xFFFFFFFF ≠ BitVec.ofNat 32 m

namespace Sys2Proof.Laws.TableRow

theorem decode : Statement .decode := fun _ => by decide

theorem counter : Statement .counter := fun _ => by decide

theorem hotp : Statement .hotp := fun _ => by decide

theorem totp : Statement .totp := fun _ => by decide

theorem clear : Statement .clear := fun _ => by decide

theorem invalid (w : Word) : Statement (.invalid w) := by
  intro h m hm e
  have hw : w = BitVec.ofNat 32 m := by
    rw [← e]
    show w = w &&& BitVec.allOnes 32
    rw [BitVec.and_allOnes]
  have no : ∀ m ∈ [1, 2, 3, 4, 5], invalidWord (BitVec.ofNat 32 m) = false := by decide
  have hf := no m hm
  rw [← hw] at hf
  exact absurd h (by simp [Instr.wf, hf])

end Sys2Proof.Laws.TableRow
end

