-- ==== Sys2Proof/Laws/Steps.lean ====
section
/-! SUPPORT. The kinds of step: a completion, a reset cycle, the service of one access, or a cycle in which nothing
arrives; and what each leaves of the state. -/

namespace Sys2Proof.Machine

/-- What it takes for an access to be served. -/
theorem served_some {s : State} {a : Access} {l : Nat} (h : s.served = some (a, l)) :
    s.rst = false ∧ s.engine.due = none ∧ ∃ es, s.pending = .access a l :: es := by
  unfold State.served at h
  cases hr : s.rst <;> cases hd : s.engine.due <;> simp [hr, hd] at h
  cases hp : s.pending with
  | nil => simp [hp] at h
  | cons e es =>
    cases e <;> simp [hp] at h
    obtain ⟨rfl, rfl⟩ := h
    exact ⟨rfl, rfl, es, rfl⟩

/-- An access at the head of the schedule is served unless the block is in reset or a completion is due. -/
theorem served_of {s : State} {a : Access} {l : Nat} {es : List Event} (hr : s.rst = false)
    (hd : s.engine.due = none) (hp : s.pending = .access a l :: es) : s.served = some (a, l) := by
  simp [State.served, hr, hd, hp]

/-- The step that serves an access. -/
theorem step_served {s : State} {a : Access} {l : Nat} (h : s.served = some (a, l)) :
    step s = .next ((s.tick.withPending s.pending.tail).serve a l) := by
  obtain ⟨hr, hd, es, hp⟩ := served_some h
  rw [step_port hr hd]
  have hp' : s.tick.pending = .access a l :: es := hp
  simp only [State.portCycle, hp', hp, List.tail_cons]

/-- An access that is answered and does nothing else leaves this state. -/
theorem answered_eq (s : State) (r : BusReply) : (s.tick.withPending s.pending.tail).withReply r = s.answered r := rfl

/-- A cycle of a running command does not end it. -/
@[simp] theorem tick_running (e : Engine) : e.tick.running = e.running := by cases e <;> rfl

@[simp] theorem tick_busy (s : State) : s.tick.busy = s.busy := tick_running s.engine

@[simp] theorem withPending_busy (s : State) (es : List Event) : (s.withPending es).busy = s.busy := rfl

@[simp] theorem withReply_busy (s : State) (r : BusReply) : (s.withReply r).busy = s.busy := rfl

/-- A block that is not busy has an idle engine. -/
theorem idle_of_not_busy {s : State} (h : s.busy = false) : s.engine = .idle := by
  cases he : s.engine with
  | idle => rfl
  | busy op snap lat => simp [State.busy, he, Engine.running] at h

/-- A cycle of an idle block changes nothing. -/
theorem tick_of_not_busy {s : State} (h : s.busy = false) : s.tick = s := by
  have he := idle_of_not_busy h
  cases s
  simp only at he
  subst he
  rfl

/-- Every step is of one of four kinds. -/
theorem step_kinds {s t : State} (h : step s = .next t) :
    (s.resetting ∧ ((s.rst = true ∧ s.resetCycle = .next t) ∨ ∃ es, t = heldInReset es)) ∨
    (∃ op snap lat, s.rst = false ∧ s.engine = .busy op snap lat ∧ lat ≤ 1 ∧
      t = s.finish (execute (decodeWord op) snap)) ∨
    (∃ a l, s.served = some (a, l) ∧ t = (s.tick.withPending s.pending.tail).serve a l) ∨
    (s.rst = false ∧ s.engine.due = none ∧ s.served = none ∧ ¬ s.resetting ∧ t = s.tick.withPending s.pending.tail) := by
  rcases step_cases s with ⟨hr, hs⟩ | ⟨op, snap, lat, hr, he, hl, hs⟩ | ⟨hr, hd, hs⟩
  · exact .inl ⟨.inl hr, .inl ⟨hr, by rw [← hs, h]⟩⟩
  · rw [hs] at h; cases h
    exact .inr (.inl ⟨op, snap, lat, hr, he, hl, rfl⟩)
  · rw [hs] at h; cases h
    rcases portCycle_cases s.tick with ⟨hp, hc⟩ | ⟨e, es, hp, hq, hc⟩ | ⟨a, l, es, hp, hc⟩ | ⟨es, hp, hc⟩
    · have hp : s.pending = [] := hp
      refine .inr (.inr (.inr ⟨hr, hd, by simp [State.served, hr, hd, hp], ?_, ?_⟩))
      · rintro (hx | ⟨-, hx⟩)
        · rw [hr] at hx; cases hx
        · simp [hp] at hx
      · rw [hc, hp]
        show s.tick = s.tick.withPending []
        rw [← hp]; rfl
    · have hp : s.pending = e :: es := hp
      refine .inr (.inr (.inr ⟨hr, hd, by rcases hq with rfl | rfl <;> simp [State.served, hr, hd, hp], ?_, ?_⟩))
      · rintro (hx | ⟨-, hx⟩)
        · rw [hr] at hx; cases hx
        · rcases hq with rfl | rfl <;> simp [hp] at hx
      · rw [hc, hp]; rfl
    · have hp : s.pending = .access a l :: es := hp
      exact .inr (.inr (.inl ⟨a, l, served_of hr hd hp, by rw [hc, hp]; rfl⟩))
    · have hp : s.pending = .rst true :: es := hp
      exact .inl ⟨.inr ⟨hd, by simp [hp]⟩, .inr ⟨es, hc⟩⟩

/-- A reset step ends in the reset state, whatever the schedule. -/
theorem resetting_next {s t : State} (h : step s = .next t) (hr : s.resetting) :
    ∃ es, t = heldInReset es ∨ t = releasedFromReset es := by
  rcases hr with hr | ⟨hd, hp⟩
  · rw [step_inReset hr] at h
    rcases resetCycle_cases s with ⟨-, hc⟩ | ⟨e, es, -, -, hc⟩ | ⟨a, l, es, -, hc⟩ | ⟨es, -, hc⟩ <;>
      rw [hc] at h <;> cases h
    · exact ⟨_, .inl rfl⟩
    · exact ⟨_, .inl rfl⟩
    · exact ⟨_, .inr rfl⟩
  · rcases step_cases s with ⟨hr, hs⟩ | ⟨op, snap, lat, hr, he, hl, hs⟩ | ⟨hr, hd, hs⟩
    · rw [hs] at h
      rcases resetCycle_cases s with ⟨-, hc⟩ | ⟨e, es, -, -, hc⟩ | ⟨a, l, es, -, hc⟩ | ⟨es, -, hc⟩ <;>
        rw [hc] at h <;> cases h
      · exact ⟨_, .inl rfl⟩
      · exact ⟨_, .inl rfl⟩
      · exact ⟨_, .inr rfl⟩
    · simp [he, Engine.due, hl] at hd
    · rw [hs] at h; cases h
      cases hq : s.pending with
      | nil => simp [hq] at hp
      | cons e es =>
        simp only [hq, List.head?_cons, Option.some.injEq] at hp
        subst hp
        have hq' : s.tick.pending = .rst true :: es := hq
        exact ⟨es, .inl (by simp only [State.portCycle, hq'])⟩

/-! ## Runs -/

/-- A run of no steps. -/
@[simp] theorem run_zero (s : State) : Host.Core.run Sys2Proof.core 0 s = .next s := rfl

/-- A run of any machine whose first step answers a next state goes on from there. -/
theorem core_run_next (M : Host.Core) {s t : M.State} (n : Nat) (h : M.step s = .next t) :
    M.run (n + 1) s = M.run n t := by
  simp only [Host.Core.run, h]

/-- A run of the block whose first step answers a next state goes on from there. -/
theorem run_next {s t : State} (n : Nat) (h : step s = .next t) :
    Host.Core.run Sys2Proof.core (n + 1) s = Host.Core.run Sys2Proof.core n t :=
  core_run_next Sys2Proof.core n h

end Sys2Proof.Machine
end

