-- ==== Sys2Proof/Tests/Slice0.lean ====
section
/-! SUPPORT. The model's own tests. Expected values come from the spec: the encodings of R92 and R94, and the vectors of
95_test_vectors.md, named by their ids. Then one witness for the hypotheses of each statement that has some. -/

open Sys2Proof Sys2Proof.Machine

namespace Sys2Proof.Tests

-- One theorem at a time: each evaluation in the kernel waits for all theorems before it, on a thread of its own.
set_option Elab.async false

/-! ## Helpers -/

/-- The next state of an outcome. -/
def nextOf (o : Host.Outcome State Fault Refusal) : Option State :=
  match o with
  | .next t => some t
  | .fault _ => none
  | .refused _ => none

/-- Registers of the next state of an outcome. -/
def regsOf (o : Host.Outcome State Fault Refusal) (rs : List Reg) : Option (List Word) :=
  (nextOf o).map fun t => rs.map (readReg t)

/-- ASCII codes (R110, R156). -/
def ascii (cs : List Char) : List Byte := cs.map fun c => BitVec.ofNat 8 c.toNat

/-- The secret of vector D-1. -/
def d1 : List Byte := ascii ['J', 'B', 'S', 'W', 'Y', '3', 'D', 'P', 'E', 'H', 'P', 'K', '3', 'P', 'X', 'P']

/-- The first half of the RFC secret. -/
def rfcHalf : List Byte := ascii ['G', 'E', 'Z', 'D', 'G', 'N', 'B', 'V', 'G', 'Y', '3', 'T', 'Q', 'O', 'J', 'Q']

/-- Input registers at reset but for a secret and `CONFIG`. -/
def inputsWith (secret : List Byte) (config : Word) : Inputs :=
  { Inputs.reset with
    config := config
    secretLen := BitVec.ofNat 32 secret.length
    secret := packBuffer 64 secret }

/-- `inputsWith` with `TIME`. -/
def inputsAt (secret : List Byte) (config timeLo : Word) : Inputs := { inputsWith secret config with timeLo := timeLo }

/-- The reset state with other input registers. -/
def idleWith (inp : Inputs) : State := { State.reset with inputs := inp }

/-- The completion of word `w`, as the next step after its acceptance. -/
def stepOf (inp : Inputs) (w : Nat) : Host.Outcome State Fault Refusal := step ((idleWith inp).withFetchWord 32 w)

/-- A block that runs word `op`, with a schedule. -/
def running (op : Word) (snap : Inputs) (lat : Nat) (es : List Event) : State :=
  { idleWith snap with engine := .busy op snap lat, pending := es }

/-- An idle block with a schedule. -/
def idleAt (es : List Event) : State := { State.reset with pending := es }

/-- A full-word write to an offset. -/
def wr (off : BitVec 12) (d : Word) : Event := .access ⟨off, 4, .write d 0b1111⟩ 1

/-- A read of an offset. -/
def rd (off : BitVec 12) : Event := .access ⟨off, 4, .read⟩ 1

/-- The last bus answer after `n` steps. -/
def replyAfter (n : Nat) (es : List Event) : Option BusReply :=
  (nextOf (Host.Core.run Sys2Proof.core n (idleAt es))).bind fun t => t.reply

/-! ## WellFormed: each check refuses an ill-formed term -/

theorem test_wf_invalid_1 : (Instr.invalid 0x00000001).wf = false := by decide
theorem test_wf_invalid_2 : (Instr.invalid 0x00000002).wf = false := by decide
theorem test_wf_invalid_3 : (Instr.invalid 0x00000003).wf = false := by decide
theorem test_wf_invalid_4 : (Instr.invalid 0x00000004).wf = false := by decide
theorem test_wf_invalid_5 : (Instr.invalid 0x00000005).wf = false := by decide

/-- OPCODE 0x00, OPCODE 0x06, OPCODE 0xFF and MBZ ≠ 0, each alone, make an invalid word. -/
theorem test_wf_accepts_invalid_words :
    ((Instr.invalid 0x00000000).wf && (Instr.invalid 0x00000006).wf && (Instr.invalid 0x000000FF).wf &&
      (Instr.invalid 0x00000101).wf && (Instr.invalid 0x80000005).wf) = true := by decide

/-! ## Decode: words written out from R92 and R94 -/

theorem test_decode_decode : decodeTableWord 32 0b00000000000000000000000000000001 = some .decode := by decide
theorem test_decode_counter : decodeTableWord 32 0b00000000000000000000000000000010 = some .counter := by decide
theorem test_decode_hotp : decodeTableWord 32 0b00000000000000000000000000000011 = some .hotp := by decide
theorem test_decode_totp : decodeTableWord 32 0b00000000000000000000000000000100 = some .totp := by decide
theorem test_decode_clear : decodeTableWord 32 0b00000000000000000000000000000101 = some .clear := by decide
theorem test_decode_invalid_zero : decodeTableWord 32 0 = some (.invalid 0) := by decide
/-- Vector E-25. -/
theorem test_decode_invalid_mbz : decodeTableWord 32 0x00000104 = some (.invalid 0x00000104) := by decide
theorem test_decode_truncated : decodeBytes [0x01, 0x00, 0x00] = .error (.truncated 3) := by decide

/-! ## Commands, one step each -/

/-- Vector D-1. -/
theorem test_decode_d1 :
    regsOf (stepOf (inputsWith d1 0x006) 1) [.status, .keyLen, .key 0, .key 1, .key 2, .key 3] =
      some [0x00000002, 10, 0x6C6C6548, 0xADDE216F, 0x0000EFBE, 0] := by decide +kernel

/-- Vector D-24: V1 before V2. -/
theorem test_decode_d24 :
    regsOf (stepOf (inputsWith (d1.take 15 ++ ascii ['1', 'A']) 0x006) 1) [.status, .keyLen] =
      some [0x00000106, 0] := by decide +kernel

/-- Vector K-12: the counter wraps below 0. -/
theorem test_counter_k12 :
    regsOf (stepOf { Inputs.reset with offsetLo := 0xFFFFFFFF, offsetHi := 0xFFFFFFFF } 2)
      [.status, .counterHi, .counterLo] = some [0x00000002, 0xFFFFFFFF, 0xFFFFFFFF] := by decide +kernel

/-- Vector K-19: PERIOD = 0. -/
theorem test_counter_k19 :
    regsOf (stepOf { Inputs.reset with timeLo := 59, period := 0, counterLo := 0xDEAD } 2)
      [.status, .counterHi, .counterLo] = some [0x00000506, 0, 0xDEAD] := by decide +kernel

/-- Vector H-1 (SHA-1), with its digest words. -/
theorem test_hotp_h1 :
    regsOf (stepOf (inputsWith (rfcHalf ++ rfcHalf) 0x006) 3)
      [.status, .digestLen, .truncOff, .trunc, .code, .otpAscii0, .otpAscii1, .digest 0, .digest 4, .digest 5, .keyLen] =
      some [0x00000002, 20, 0, 0x4C93CF18, 755224, 0x32353537, 0x00003432, 0x18CF93CC, 0xB0E4CDB7, 0, 0] := by
  decide +kernel

/-- Vector LK-5 (SHA-256): a key of 65 bytes is hashed first. -/
theorem test_hotp_lk5 :
    regsOf (stepOf { inputsWith ((d1 ++ d1 ++ d1 ++ d1 ++ d1 ++ d1 ++ d1).take 104) 0x106 with counterLo := 1 } 3)
      [.status, .truncOff, .trunc, .code] = some [0x00000002, 5, 0x3447F513, 131027] := by decide +kernel

/-- Vector T-1 (SHA-1). -/
theorem test_totp_t1 :
    regsOf (stepOf (inputsAt (rfcHalf ++ rfcHalf) 0x008 59) 4)
      [.status, .counterLo, .counterHi, .truncOff, .trunc, .code, .otpAscii0, .otpAscii1] =
      some [0x00000002, 1, 0, 11, 0x41397EEA, 94287082, 0x38323439, 0x32383037] := by decide +kernel

/-- Vector T-3 (SHA-512). -/
theorem test_totp_t3 :
    regsOf (stepOf (inputsAt (rfcHalf ++ rfcHalf) 0x208 59) 4)
      [.status, .digestLen, .truncOff, .trunc, .code] =
      some [0x00000002, 64, 13, 0x1603B6C3, 69342147] := by decide +kernel

/-- R220: `CLEAR` resets the inputs and WDROP. -/
theorem test_clear :
    regsOf (step (State.withFetchWord { idleWith (inputsWith d1 0x208) with wdrop := true, irqEn := true } 32 5))
      [.status, .secretLen, .secret 0, .config, .period, .ctrl] =
      some [0x00000002, 0, 0, 0x00000006, 0x0000001E, 1] := by decide +kernel

/-- R221's worked example. -/
theorem test_invalid_ff : regsOf (stepOf Inputs.reset 0xFF) [.status] = some [0x00000606] := by decide +kernel

/-- Vector E-26: a `CLEAR` opcode with MBZ ≠ 0 does not run. -/
theorem test_invalid_e26 :
    regsOf (stepOf (inputsWith (rfcHalf ++ rfcHalf) 0x006) 0x80000005) [.status, .secretLen] =
      some [0x00000606, 32] := by decide +kernel

/-! ## The port -/

/-- Vector B-8: reserved bits of `CONFIG` are dropped, illegal values stored. -/
theorem test_bus_b8 : replyAfter 2 [wr 0x014 0xFFFFFFFF, rd 0x014] = some (.read 0x0000030F .okay) := by decide +kernel

/-- Vector B-10. -/
theorem test_bus_b10 : replyAfter 2 [wr 0x008 0xFFFFFFFF, rd 0x008] = some (.read 0x00000001 .okay) := by
  decide +kernel

/-- Vector B-13: misaligned. -/
theorem test_bus_b13 : replyAfter 1 [rd 0x002] = some (.read 0 .error) := by decide +kernel

/-- Vector B-15: reserved. -/
theorem test_bus_b15 : replyAfter 1 [wr 0x07C 5] = some (.write .error) := by decide +kernel

/-- R270: a write while busy is dropped with OKAY, and `STATUS` then reads WDROP and BUSY. -/
theorem test_bus_dropped :
    replyAfter 3 [.access (writeTo .cmd 4) 5, wr 0x018 7, rd 0x010] = some (.read 0x00000009 .okay) ∧
      replyAfter 3 [.access (writeTo .cmd 4) 5, wr 0x018 7, rd 0x018] = some (.read 0x0000001E .okay) := by
  decide +kernel

/-- R241: an access that arrives in the cycle of a completion sees the completed state. -/
theorem test_bus_after_completion :
    replyAfter 3 [.access (writeTo .cmd 0) 1, rd 0x010] = some (.read 0x00000606 .okay) := by decide +kernel

/-! ## Hash functions: known answers HK-2 -/

/-- SHA-1 of "abc". -/
theorem test_sha1_abc : beNat (sha1Digest (ascii ['a', 'b', 'c'])) = 0xa9993e364706816aba3e25717850c26c9cd0d89d := by
  decide +kernel

/-- SHA-256 of "abc". -/
theorem test_sha256_abc : beNat (sha256Digest (ascii ['a', 'b', 'c'])) =
    0xba7816bf8f01cfea414140de5dae2223b00361a396177a9cb410ff61f20015ad := by decide +kernel

/-- SHA-512 of "abc". -/
theorem test_sha512_abc : beNat (sha512Digest (ascii ['a', 'b', 'c'])) =
    0xddaf35a193617abacc417349ae20413112e6fa4e89a97ea20a9eeee64b55d39a2192992a274fc1a836ba3c23a3feebbd454d4423643ce80e2a9ac94fa54ca49f := by
  decide +kernel

/-! ## Witnesses: for each statement with hypotheses, concrete values that meet all of them -/

/-- A legal secret, digits, algorithm and period: V1 to V5 hold. -/
def goodInputs : Inputs := inputsAt d1 0x106 59

/-- A secret of 15 characters, and one with a character outside the alphabet. -/
def badLength : Inputs := inputsWith (d1.take 15) 0x006
def badAlphabet : Inputs := inputsWith (d1.take 15 ++ ascii ['1']) 0x006

theorem good_V1 : goodInputs.V1 := by unfold Inputs.V1; decide +kernel
theorem good_V2 : goodInputs.V2 := by unfold Inputs.V2; decide +kernel
theorem good_V3 : goodInputs.V3 := by unfold Inputs.V3; decide +kernel
theorem good_V4 : goodInputs.V4 .sha256 := by unfold Inputs.V4; decide +kernel
theorem good_V5 : goodInputs.V5 := by unfold Inputs.V5; decide +kernel
theorem d1_V1 (c : Word) : (inputsWith d1 c).V1 := good_V1
theorem d1_V2 (c : Word) : (inputsWith d1 c).V2 := good_V2

theorem witness_DecodingAnEncodedCommandGivesItBack :
    Instr.decode.wf = true ∧ Instr.counter.wf = true ∧ Instr.hotp.wf = true ∧ Instr.totp.wf = true ∧
      Instr.clear.wf = true ∧ (Instr.invalid 0xFFFFFF05).wf = true := by decide

theorem witness_EncodingADecodedWordGivesItBack : ([] : List Byte).length < 4 ∧ [0x01, 0, (0 : Byte)].length < 4 := by
  decide

theorem witness_CompletionDispatchesOnTheCommandWord :
    (running 0x00000005 Inputs.reset 1 []).engine = .busy 0x00000005 Inputs.reset 1 := rfl

/-- The mapped offsets next to each reserved range, the reserved ones at its ends, and a misaligned one. -/
theorem witness_RegisterMapIsOneToOneAndReservedElsewhere :
    [0x050, 0x054, 0x07C, 0x080, 0x0BC, 0x0C0, 0x0FC, 0x100, 0x1FC, 0x200, 0x29C, 0x2A0, 0xFFC, 0x002].map regAt =
      [some .digestLen, none, none, some (.digest 0), some (.digest 15), none, none, some (.secret 0),
        some (.secret 63), some (.key 0), some (.key 39), none, none, none] := by decide

theorem witness_reservedOffset_inside : ∀ off ∈ [0x054, 0x07C, 0x0C0, 0x0FC, 0x2A0, 0xFFC], reservedOffset off := by
  unfold reservedOffset; decide

theorem witness_reservedOffset_outside : ∀ off ∈ [0x050, 0x080, 0x0BC, 0x100, 0x29C], ¬ reservedOffset off := by
  unfold reservedOffset; decide

/-- Latency left 1 and 0: both are due. -/
theorem witness_StepRunsTheAcceptedCommand :
    (running 4 goodInputs 1 []).rst = false ∧ (running 4 goodInputs 1 []).engine = .busy 4 goodInputs 1 ∧
      (running 4 goodInputs 0 []).engine = .busy 4 goodInputs 0 ∧
      decodeBytes (wordBytes 4) = .ok (.totp, []) := ⟨rfl, rfl, rfl, by decide⟩

/-- An idle block, and a running one whose completion is not due. -/
theorem witness_StepServesTheArrivingAccess :
    (idleAt [rd 0x010]).engine.due = none ∧ (idleAt [rd 0x010]).pending = .access ⟨0x010, 4, .read⟩ 1 :: [] ∧
      (running 4 goodInputs 2 [rd 0x010]).engine.due = none ∧
      (running 4 goodInputs 2 [rd 0x010]).engine = .busy 4 goodInputs 2 := ⟨rfl, rfl, rfl, rfl⟩

theorem witness_AcceptanceSnapshotsInputsAndClearsResults :
    (idleAt [wr 0x00C 4]).busy = false ∧ (idleAt [wr 0x00C 4]).served = some (writeTo .cmd 4, 1) := ⟨rfl, rfl⟩

/-- A step of each kind that the lifetime rules of `STATUS` tell apart. -/
theorem accepting_idle : (idleAt [wr 0x00C 4]).accepting := ⟨rfl, 4, 1, rfl⟩
theorem completing_due : (running 5 Inputs.reset 1 []).completing := ⟨rfl, by decide +kernel⟩
theorem resetting_asserted : (heldInReset [.rst false]).resetting := .inl rfl
theorem resetting_arriving : (running 5 Inputs.reset 2 [.rst true]).resetting := .inr ⟨rfl, rfl⟩

theorem quiet_neither : ¬ (idleAt [.quiet]).accepting ∧ ¬ (idleAt [.quiet]).completing ∧ ¬ (idleAt [.quiet]).resetting := by
  refine ⟨?_, ?_, ?_⟩
  · rintro ⟨-, d, l, h⟩; simp [idleAt, State.served, State.reset, Engine.due] at h
  · rintro ⟨-, h⟩; exact h rfl
  · rintro (h | ⟨-, h⟩)
    · simp [idleAt, State.reset] at h
    · simp [idleAt] at h

theorem witness_BusyChangesOnlyAtAcceptanceCompletionAndReset :
    (∃ t, step (idleAt [wr 0x00C 4]) = .next t) ∧ (idleAt [wr 0x00C 4]).accepting ∧
      (∃ t, step (running 5 Inputs.reset 1 []) = .next t) ∧ (running 5 Inputs.reset 1 []).completing ∧
      (∃ t, step (heldInReset [.rst false]) = .next t) ∧ (heldInReset [.rst false]).resetting ∧
      (∃ t, step (running 5 Inputs.reset 2 [.rst true]) = .next t) ∧ (running 5 Inputs.reset 2 [.rst true]).resetting ∧
      (∃ t, step (idleAt [.quiet]) = .next t) ∧ ¬ (idleAt [.quiet]).accepting ∧ ¬ (idleAt [.quiet]).completing ∧
      ¬ (idleAt [.quiet]).resetting :=
  ⟨⟨_, rfl⟩, accepting_idle, ⟨_, rfl⟩, completing_due, ⟨_, rfl⟩, resetting_asserted, ⟨_, rfl⟩, resetting_arriving,
    ⟨_, rfl⟩, quiet_neither.1, quiet_neither.2.1, quiet_neither.2.2⟩

/-- A step that serves no access is not the service of a `STATUS` or input-group write. -/
theorem quiet_serves_none (a : Access × Nat) : (idleAt [.quiet]).served ≠ some a := by
  simp [idleAt, State.served, State.reset, Engine.due]

theorem witness_DoneIsSetByCompletionAndClearedAsListed :
    (∃ t, step (idleAt [wr 0x010 2]) = .next t) ∧ (idleAt [wr 0x010 2]).served = some (writeTo .status 2, 1) ∧
      (∃ t, step (idleAt [.quiet]) = .next t) ∧ ¬ (idleAt [.quiet]).completing ∧ ¬ (idleAt [.quiet]).accepting ∧
      ¬ (idleAt [.quiet]).resetting ∧
      (∀ d latency, (idleAt [.quiet]).served ≠ some (writeTo .status d, latency)) :=
  ⟨⟨_, rfl⟩, rfl, ⟨_, rfl⟩, quiet_neither.2.1, quiet_neither.1, quiet_neither.2.2, fun _ _ => quiet_serves_none _⟩

theorem witness_WdropIsStickyUntilClearedAsListed :
    (∃ t, step (running 4 goodInputs 2 [wr 0x018 7]) = .next t) ∧ (running 4 goodInputs 2 [wr 0x018 7]).busy = true ∧
      Reg.isInput .period = true ∧ (running 4 goodInputs 2 [wr 0x018 7]).served = some (writeTo .period 7, 1) ∧
      (∃ t, step (idleAt [wr 0x010 8]) = .next t) ∧ (idleAt [wr 0x010 8]).served = some (writeTo .status 8, 1) ∧
      (running 5 Inputs.reset 1 []).engine.due = some 5 ∧
      (∃ t, step (idleAt [.quiet]) = .next t) ∧
      (∀ r d latency, (idleAt [.quiet]).busy = true → Reg.isInput r = true →
        (idleAt [.quiet]).served ≠ some (writeTo r d, latency)) :=
  ⟨⟨_, rfl⟩, rfl, rfl, rfl, ⟨_, rfl⟩, rfl, rfl, ⟨_, rfl⟩, fun _ _ _ _ _ => quiet_serves_none _⟩

/-- A completion that succeeds and one that fails. -/
theorem witness_ErrcodeHoldsTheOutcomeUntilTheNextAcceptance :
    (∃ t, step (running 5 Inputs.reset 1 []) = .next t) ∧ (running 5 Inputs.reset 1 []).rst = false ∧
      (running 5 Inputs.reset 1 []).engine = .busy 5 Inputs.reset 1 ∧
      (∃ w, execute (decodeWord 5) Inputs.reset = .ok w) ∧
      (∃ t, step (running 9 Inputs.reset 1 []) = .next t) ∧
      (∃ e, execute (decodeWord 9) Inputs.reset = .error e) :=
  ⟨⟨_, rfl⟩, rfl, rfl, ⟨_, rfl⟩, ⟨_, rfl⟩, ⟨_, rfl⟩⟩

theorem witness_IrqIsDoneAndEnable :
    (∃ t, step (idleAt [wr 0x008 1]) = .next t) ∧ (idleAt [wr 0x008 1]).served = some (writeTo .ctrl 1, 1) ∧
      (∃ t, step (idleAt [wr 0x010 2]) = .next t) ∧ (idleAt [wr 0x010 2]).served = some (writeTo .status 2, 1) :=
  ⟨⟨_, rfl⟩, rfl, ⟨_, rfl⟩, rfl⟩

/-- A refused access of each kind: size 1, misaligned, reserved, a lane disabled. -/
theorem witness_RefusedAccessesGetErrorAndChangeNothing :
    (∃ l, (idleAt [.access ⟨0x100, 1, .read⟩ 1]).served = some (⟨0x100, 1, .read⟩, l)) ∧
      Access.refusedByBus ⟨0x100, 1, .read⟩ ∧
      (∃ l, (idleAt [rd 0x002]).served = some (⟨0x002, 4, .read⟩, l)) ∧ Access.refusedByBus ⟨0x002, 4, .read⟩ ∧
      (∃ l, (idleAt [rd 0xFFC]).served = some (⟨0xFFC, 4, .read⟩, l)) ∧ Access.refusedByBus ⟨0xFFC, 4, .read⟩ ∧
      Access.refusedByBus ⟨0x100, 4, .write 0x41 0b0001⟩ := by
  refine ⟨⟨_, rfl⟩, .inl (by decide), ⟨_, rfl⟩, .inr (.inl (by decide)), ⟨_, rfl⟩,
    .inr (.inr (.inl (.inr (.inr (by decide))))), .inr (.inr (.inr ⟨_, _, rfl, by decide⟩))⟩

/-- One offset for each arm of the rule; the arms' registers are apart. -/
theorem witness_HostWriteFollowsItsRule :
    (idleAt [wr 0x054 5]).served = some (⟨0x054, 4, .write 5 0b1111⟩, 1) ∧ reservedOffset 0x054 ∧
      (idleAt [wr 0x044 5]).served = some (⟨0x044, 4, .write 5 0b1111⟩, 1) ∧ Reg.offset .code = 0x044 ∧
      Reg.isResult .code = true ∧ Reg.offset .ctrl = 0x008 ∧ Reg.offset .status = 0x010 ∧
      (running 4 goodInputs 2 [wr 0x00C 5]).served = some (⟨0x00C, 4, .write 5 0b1111⟩, 1) ∧ Reg.isInput .cmd = true ∧
      (running 4 goodInputs 2 [wr 0x00C 5]).busy = true ∧ (idleAt [wr 0x00C 5]).busy = false ∧
      Reg.offset .config = 0x014 ∧ Reg.isInput .config = true ∧ Reg.config ≠ .cmd ∧
      Reg.isInput .ctrl = false ∧ Reg.isInput .status = false ∧ Reg.isInput .code = false := by
  unfold reservedOffset
  exact ⟨rfl, by decide, rfl, rfl, rfl, rfl, rfl, rfl, rfl, rfl, rfl, rfl, rfl, by decide, rfl, rfl, rfl⟩

theorem witness_ReadsAnswerTheRegisterAndChangeNothing :
    (idleAt [rd 0x002]).served = some (⟨0x002, 4, .read⟩, 1) ∧ (idleAt [rd 0x000]).served = some (readOf .id, 1) ∧
      (idleAt [rd 0x004]).served = some (readOf .version, 1) ∧ (idleAt [rd 0x00C]).served = some (readOf .cmd, 1) ∧
      (idleAt [rd 0x29C]).served = some (readOf (.key 39), 1) := ⟨rfl, rfl, rfl, rfl, rfl⟩

/-- The invariant holds of a command that has just been accepted. -/
theorem inv_accepted (op : Word) (es : List Event) : ((State.reset.accept op 3).withPending es).Inv where
  config := (by decide : Inputs.reset.config &&& ~~~configMask = 0)
  running := fun _ _ _ h => by cases h; exact ⟨rfl, rfl, rfl, rfl, by decide⟩
  error := fun h => absurd rfl h
  keyLen := (by decide : Results.zero.keyLen.toNat ≤ 160)
  keyTail := fun i _ => bufferByte_zero 40 i
  digestLen := .inl rfl
  digestTail := fun i _ => bufferByte_zero 16 i
  truncOff := (by decide : Results.zero.truncOff.toNat < 16)
  trunc := (by decide : Results.zero.trunc.toNat < 2 ^ 31)
  code := (by decide : Results.zero.code.toNat < 10 ^ 8)
  keyHidden := fun _ => rfl
  held := fun h => by cases h

theorem witness_ReadsWhileBusyShowNoResults :
    ((State.reset.accept 4 3).withPending [rd 0x038]).Inv ∧
      ((State.reset.accept 4 3).withPending [rd 0x038]).engine = .busy 4 Inputs.reset 3 ∧
      ((State.reset.accept 4 3).withPending [rd 0x038]).served = some (readOf .keyLen, 1) ∧
      Reg.isResult .keyLen = true ∧ Reg.isInput .counterLo = true := ⟨inv_accepted 4 _, rfl, rfl, rfl, rfl⟩

/-- The first address behind the window, whatever `BASE` is. -/
theorem witness_BusAddressesMapToWindowOffsets :
    Config.base + 4096 < Config.base ∨ Config.base + 4096 ≤ Config.base + 4096 := .inr (Nat.le_refl _)

theorem witness_ResetAbandonsARunningCommand :
    (running 4 goodInputs 2 [.rst true, .rst false]).rst = false ∧
      (running 4 goodInputs 2 [.rst true, .rst false]).engine.due = none ∧
      (running 4 goodInputs 2 [.rst true, .rst false]).pending = .rst true :: .rst false :: [] := ⟨rfl, rfl, rfl⟩

/-- The refusal happens. -/
theorem witness_StepStopsOnlyOnAnAccessDuringReset :
    step (heldInReset [rd 0x010]) = .refused .accessDuringReset := rfl

theorem witness_RunsGoOnWhileHostsObeyReset :
    State.safe (idleAt [wr 0x00C 4, .rst true, .quiet, .rst false, rd 0x010]) = true := rfl

theorem witness_EveryStepKeepsTheInvariant :
    ((State.reset.accept 4 3).withPending []).Inv ∧
      ∃ t, step ((State.reset.accept 4 3).withPending []) = .next t := ⟨inv_accepted 4 _, _, rfl⟩

theorem witness_ResultsStayUntilTheNextAcceptanceOrReset :
    (idleAt [.quiet]).busy = false ∧ (∃ t, step (idleAt [.quiet]) = .next t) ∧ ¬ (idleAt [.quiet]).accepting ∧
      ¬ (idleAt [.quiet]).resetting ∧ (idleAt [wr 0x00C 4]).accepting ∧ (idleAt [.rst true]).busy = false ∧
      (idleAt [.rst true]).resetting :=
  ⟨rfl, ⟨_, rfl⟩, quiet_neither.1, quiet_neither.2.2, accepting_idle, rfl, .inr ⟨rfl, rfl⟩⟩

/-- A host write, a `COUNTER`, a `CLEAR` and a reset, each of which changes the input group. -/
theorem witness_InputsChangeOnlyByHostCommandOrReset :
    (∃ t, step (idleAt [wr 0x018 7]) = .next t ∧ t.inputs ≠ (idleAt [wr 0x018 7]).inputs) ∧
      (∃ t, step (running 2 goodInputs 1 []) = .next t ∧ t.inputs ≠ (running 2 goodInputs 1 []).inputs) ∧
      (∃ t, step (running 5 goodInputs 1 []) = .next t ∧ t.inputs ≠ (running 5 goodInputs 1 []).inputs) ∧
      (∃ t, step (running 5 goodInputs 2 [.rst true]) = .next t ∧
        t.inputs ≠ (running 5 goodInputs 2 [.rst true]).inputs) :=
  ⟨⟨_, rfl, by decide +kernel⟩, ⟨_, rfl, by decide +kernel⟩, ⟨_, rfl, by decide +kernel⟩, ⟨_, rfl, by decide +kernel⟩⟩

/-- Latency 3: two events pass before the completion, and a reset as the third does not count. -/
theorem witness_ARunningCommandCompletesUndisturbed :
    (running 4 goodInputs 3 [wr 0x018 7, wr 0x010 2, .rst true]).rst = false ∧
      (running 4 goodInputs 3 [wr 0x018 7, wr 0x010 2, .rst true]).engine = .busy 4 goodInputs 3 ∧
      noResetWithin (3 - 1) (running 4 goodInputs 3 [wr 0x018 7, wr 0x010 2, .rst true]).pending := by
  refine ⟨rfl, rfl, ?_⟩
  unfold noResetWithin
  decide

theorem witness_OutcomeDependsOnTheSnapshotAlone :
    (running 4 goodInputs 3 []).engine.snapshot = some goodInputs ∧
      (running 1 goodInputs 1 [.quiet]).engine.snapshot = some goodInputs ∧
      (∃ t, exec .totp (running 4 goodInputs 3 []) = .next t) ∧
      (∃ t, exec .totp (running 1 goodInputs 1 [.quiet]) = .next t) := ⟨rfl, rfl, ⟨_, rfl⟩, ⟨_, rfl⟩⟩

theorem bad_length : ¬ badLength.V1 := by unfold Inputs.V1; decide +kernel
theorem bad_alphabet_V1 : badAlphabet.V1 := by unfold Inputs.V1; decide +kernel
theorem bad_alphabet : ¬ badAlphabet.V2 := by unfold Inputs.V2; decide +kernel

/-- DIGITS 5 and 9, ALG 3 and PERIOD 0, each behind checks that pass. -/
theorem witness_OtpErrorsFollowTheValidationOrder :
    (running 3 badLength 1 []).engine = .busy 3 badLength 1 ∧ ¬ badLength.V1 ∧ badAlphabet.V1 ∧ ¬ badAlphabet.V2 ∧
      (inputsWith d1 0x005).V1 ∧ (inputsWith d1 0x005).V2 ∧ ¬ (inputsWith d1 0x005).V3 ∧
      ¬ (inputsWith d1 0x009).V3 ∧ (inputsWith d1 0x306).V1 ∧ (inputsWith d1 0x306).V2 ∧ (inputsWith d1 0x306).V3 ∧
      (inputsWith d1 0x306).algField = 3 ∧ (inputsWith d1 0x208).V3 ∧ (inputsWith d1 0x208).algField ≠ 3 ∧
      ¬ Inputs.V5 { inputsWith d1 0x208 with period := 0 } := by
  refine ⟨rfl, bad_length, bad_alphabet_V1, bad_alphabet, d1_V1 _, d1_V2 _, ?_, ?_, d1_V1 _, d1_V2 _, ?_, ?_, ?_, ?_, ?_⟩ <;>
    first | (unfold Inputs.V3; decide +kernel) | (unfold Inputs.V5; decide +kernel) | decide +kernel

theorem witness_DecodeAndCounterErrors :
    (running 1 badLength 1 []).engine = .busy 1 badLength 1 ∧ ¬ badLength.V1 ∧ badAlphabet.V1 ∧ ¬ badAlphabet.V2 ∧
      ¬ Inputs.V5 { Inputs.reset with period := 0 } :=
  ⟨rfl, bad_length, bad_alphabet_V1, bad_alphabet, by unfold Inputs.V5; decide +kernel⟩

theorem witness_FailedCommandsLeaveInputsAndNoResults :
    ∃ t, State.reset.runCommand 4 = .next t ∧ t.errcode ≠ .noError := ⟨_, rfl, by decide +kernel⟩

/-- The OPCODE and MBZ boundaries of R94. -/
theorem witness_InvalidWordsAreAcceptedAndFail :
    ((0x00000000 : Word).toNat % 256 = 0) ∧ 6 ≤ (0x00000006 : Word).toNat % 256 ∧
      6 ≤ (0x000000FF : Word).toNat % 256 ∧ (0x00000101 : Word).toNat / 256 ≠ 0 ∧
      (0x80000005 : Word).toNat / 256 ≠ 0 ∧ (running 6 Inputs.reset 1 []).engine = .busy 6 Inputs.reset 1 ∧
      (idleAt [wr 0x00C 6]).busy = false ∧ (idleAt [wr 0x00C 6]).served = some (writeTo .cmd 6, 1) :=
  ⟨by decide, by decide, by decide, by decide, by decide, rfl, rfl, rfl⟩

/-- The shortest and the longest legal secret. -/
theorem witness_RawKeyLengthIsFiveEighths :
    (inputsWith (List.replicate 16 0x41) 0x006).V1 ∧ (inputsWith (List.replicate 256 0x41) 0x006).V1 := by
  unfold Inputs.V1; decide +kernel

theorem witness_RawKeyIsTheBase32Number : goodInputs.V1 ∧ goodInputs.V2 := ⟨good_V1, good_V2⟩

/-- Upper case against lower case, both ways, and equal digits. -/
theorem witness_CaseDoesNotChangeTheKey :
    ((inputsWith (ascii ['A', 'z', '7']) 6).secretLen = (inputsWith (ascii ['a', 'Z', '7']) 6).secretLen) ∧
      ∀ i, i < (inputsWith (ascii ['A', 'z', '7']) 6).length →
        (inputsWith (ascii ['a', 'Z', '7']) 6).secretByte i = (inputsWith (ascii ['A', 'z', '7']) 6).secretByte i ∨
        (0x41 ≤ (inputsWith (ascii ['A', 'z', '7']) 6).secretByte i ∧
          (inputsWith (ascii ['A', 'z', '7']) 6).secretByte i ≤ 0x5A ∧
          (inputsWith (ascii ['a', 'Z', '7']) 6).secretByte i =
            (inputsWith (ascii ['A', 'z', '7']) 6).secretByte i + 0x20) ∨
        (0x41 ≤ (inputsWith (ascii ['a', 'Z', '7']) 6).secretByte i ∧
          (inputsWith (ascii ['a', 'Z', '7']) 6).secretByte i ≤ 0x5A ∧
          (inputsWith (ascii ['A', 'z', '7']) 6).secretByte i =
            (inputsWith (ascii ['a', 'Z', '7']) 6).secretByte i + 0x20) := by decide +kernel

/-- Vector D-25: other bytes behind the length. -/
theorem witness_BytesPastTheLengthAreIgnored :
    (packBuffer 64 (d1 ++ ascii ['1', '1', '1', '1']) ≠ goodInputs.secret) ∧
      ∀ k, k < goodInputs.length →
        bufferByte (packBuffer 64 (d1 ++ ascii ['1', '1', '1', '1'])) k = goodInputs.secretByte k := by decide +kernel

theorem witness_DecodeCompletesWithTheRawKey :
    (running 1 goodInputs 1 []).engine = .busy 1 goodInputs 1 ∧ goodInputs.V1 ∧ goodInputs.V2 :=
  ⟨rfl, good_V1, good_V2⟩

theorem witness_CounterCompletesWithTheTimeStep :
    (running 2 Inputs.reset 1 []).engine = .busy 2 Inputs.reset 1 ∧ Inputs.reset.V5 :=
  ⟨rfl, by unfold Inputs.V5; decide +kernel⟩

theorem witness_MessageSchedulesFollowTheirRecurrences :
    (blockWords 32 (List.replicate 64 0)).length = 16 ∧ (blockWords 64 (List.replicate 128 0)).length = 16 := by
  decide +kernel

/-- One block less one zero byte, and a zero byte more than fits. -/
theorem witness_PaddingIsTheLeastThatFillsBlocks :
    0 < 64 ∧ 8 * (List.replicate 55 (0 : Byte)).length < 256 ^ 8 ∧ 8 * (List.replicate 56 (0 : Byte)).length < 256 ^ 8 := by
  decide

/-- The two sides of both thresholds of R201. -/
theorem witness_HmacKeyPreparation :
    (List.replicate 64 (0 : Byte)).length ≤ Alg.sha1.blockBytes ∧ Alg.sha256.blockBytes < (List.replicate 65 (0 : Byte)).length ∧
      (inputsWith (List.replicate 96 0x41) 6).V1 ∧ (inputsWith (List.replicate 104 0x41) 6).V1 ∧
      (inputsWith (List.replicate 200 0x41) 6).V1 ∧ (inputsWith (List.replicate 208 0x41) 6).V1 := by
  unfold Inputs.V1; decide +kernel

theorem witness_TruncationReadsAWindowOfTheDigest : ((6 : Nat) = 6 ∨ (6 : Nat) = 7 ∨ (6 : Nat) = 8) := .inl rfl

/-- The largest code of each length. -/
theorem witness_OtpCharactersSpellTheCode : 999999 < 10 ^ 6 ∧ 9999999 < 10 ^ 7 ∧ 99999999 < 10 ^ 8 := by decide

/-- Every algorithm and every digit count is reached. -/
theorem witness_HotpCompletesWithTheCode :
    (running 3 goodInputs 1 []).engine = .busy 3 goodInputs 1 ∧ goodInputs.V1 ∧ goodInputs.V2 ∧ goodInputs.V3 ∧
      goodInputs.V4 .sha256 ∧ (inputsWith d1 0x007).V3 ∧ (inputsWith d1 0x007).V4 .sha1 ∧ (inputsWith d1 0x208).V3 ∧
      (inputsWith d1 0x208).V4 .sha512 := by
  refine ⟨rfl, good_V1, good_V2, good_V3, good_V4, ?_, ?_, ?_, ?_⟩ <;>
    first | (unfold Inputs.V3; decide +kernel) | (unfold Inputs.V4; decide +kernel)

theorem witness_TotpCompletesWithTheCode :
    (running 4 goodInputs 1 []).engine = .busy 4 goodInputs 1 ∧ goodInputs.V1 ∧ goodInputs.V2 ∧ goodInputs.V3 ∧
      goodInputs.V4 .sha256 ∧ goodInputs.V5 := ⟨rfl, good_V1, good_V2, good_V3, good_V4, good_V5⟩

theorem witness_CounterThenHotpEqualsTotp :
    (idleWith goodInputs).inputs.V1 ∧ (idleWith goodInputs).inputs.V2 ∧ (idleWith goodInputs).inputs.V3 ∧
      (idleWith goodInputs).inputs.V4 .sha256 ∧ (idleWith goodInputs).inputs.V5 :=
  ⟨good_V1, good_V2, good_V3, good_V4, good_V5⟩

/-- TIME 30 and 59, vectors TC-7 and TC-8. -/
theorem witness_SameTimeStepGivesTheSameCode :
    ((0 : Word) ++ (30 : Word)).toNat / (idleWith goodInputs).inputs.period.toNat =
      (idleWith goodInputs).inputs.time.toNat / (idleWith goodInputs).inputs.period.toNat := by decide +kernel

theorem witness_ClearCompletesAndWipesTheInputs : (running 5 goodInputs 1 []).engine = .busy 5 goodInputs 1 := rfl

theorem witness_OtpCommandsDoNotExposeTheKey :
    ((0x00000003 : Word) = 0x00000003 ∨ (0x00000003 : Word) = 0x00000004) ∧
      ((0x00000004 : Word) = 0x00000003 ∨ (0x00000004 : Word) = 0x00000004) := ⟨.inl rfl, .inr rfl⟩

end Sys2Proof.Tests
end

section
/-! PROOFS. What each write of a completion leaves of a register, and why the outcome of a command depends on its
snapshot alone (R8, R55). -/

namespace Sys2Proof.Machine

/-! ## What a host reads after the writes of a completion -/

/-- R120: `DECODE` writes the key buffer and `KEY_LEN` only. -/
theorem readReg_writeKey_frame {r : Reg} (h : r.isKeyResult = false) (s : State) (k : List Byte) :
    readReg (s.writeKey k) r = readReg s r := by
  cases r with
  | keyLen | key => cases h
  | _ => rfl

theorem readReg_writeKey_congr {r : Reg} (h : r.isKeyResult = true) (s t : State) (k : List Byte) :
    readReg (s.writeKey k) r = readReg (t.writeKey k) r := by
  cases r with
  | keyLen | key => rfl
  | _ => cases h

/-- R135: `COUNTER` writes its two words only. -/
theorem readReg_writeCounter_frame {r : Reg} (h : r.isCounter = false) (s : State) (c : DWord) :
    readReg (s.writeCounter c) r = readReg s r := by
  cases r with
  | counterLo | counterHi => cases h
  | _ => rfl

theorem readReg_writeCounter_congr {r : Reg} (h : r.isCounter = true) (s t : State) (c : DWord) :
    readReg (s.writeCounter c) r = readReg (t.writeCounter c) r := by
  cases r with
  | counterLo | counterHi => rfl
  | _ => cases h

/-- R46, R157: the digest and OTP registers are written, and no key register. -/
theorem readReg_writeOtp_frame {r : Reg} (h : r.isOtpResult = false) (s : State) (o : OtpResult) :
    readReg (s.writeOtp o) r = readReg s r := by
  cases r with
  | truncOff | trunc | code | otpAscii0 | otpAscii1 | digestLen | digest => cases h
  | _ => rfl

theorem readReg_writeOtp_congr {r : Reg} (h : r.isOtpResult = true) (s t : State) (o : OtpResult) :
    readReg (s.writeOtp o) r = readReg (t.writeOtp o) r := by
  cases r with
  | truncOff | trunc | code | otpAscii0 | otpAscii1 | digestLen | digest => rfl
  | _ => cases h

/-- R220: outside the input group `CLEAR` writes WDROP only, which `STATUS` shows. -/
theorem readReg_wipeInputs_frame {r : Reg} (h : r.isInput = false) (hs : r ≠ .status) (s : State) :
    readReg s.wipeInputs r = readReg s r := by
  cases r with
  | config | period | secretLen | offsetLo | offsetHi | timeLo | timeHi | counterLo | counterHi | secret => cases h
  | status => exact absurd rfl hs
  | _ => rfl

theorem readReg_wipeInputs_congr {r : Reg} (h : r.isInput = true) (s t : State) :
    readReg s.wipeInputs r = readReg t.wipeInputs r := by
  cases r with
  | cmd | config | period | secretLen | offsetLo | offsetHi | timeLo | timeHi | counterLo | counterHi | secret => rfl
  | _ => cases h

/-- R56: the end of a completion changes `STATUS` alone among the registers. -/
theorem readReg_endCommand_frame {r : Reg} (hs : r ≠ .status) (s : State) (e : ErrCode) :
    readReg (s.endCommand e) r = readReg s r :=
  readReg_congr' (State.endCommand_irqEn s e) (State.endCommand_inputs s e) (State.endCommand_results s e) r hs

/-! ## Updates that do not read what they overwrite -/

/-- The update `f` leaves in register `r` either a value that is the same from every state, or the value it had. -/
def WritesOrKeeps (f : State → State) (r : Reg) : Prop :=
  (∀ s t, readReg (f s) r = readReg (f t) r) ∨ ∀ s, readReg (f s) r = readReg s r

/-- An update that writes the registers `changed` names and keeps the others. -/
theorem writesOrKeeps_of_changed {f : State → State} {r : Reg} {changed : Reg → Bool}
    (hw : changed r = true → ∀ s t, readReg (f s) r = readReg (f t) r)
    (hk : changed r = false → ∀ s, readReg (f s) r = readReg s r) : WritesOrKeeps f r := by
  cases hc : changed r with
  | true => exact .inl (hw hc)
  | false => exact .inr (hk hc)

/-- One such update after another is one: the last to write the register decides. -/
theorem WritesOrKeeps.comp {f g : State → State} {r : Reg} (hg : WritesOrKeeps g r) (hf : WritesOrKeeps f r) :
    WritesOrKeeps (fun s => g (f s)) r := by
  rcases hg with hg | hg
  · exact .inl fun s t => hg (f s) (f t)
  · rcases hf with hf | hf
    · exact .inl fun s t => by rw [hg, hg, hf s t]
    · exact .inr fun s => by rw [hg, hf]

theorem writesOrKeeps_writeKey (k : List Byte) (r : Reg) : WritesOrKeeps (·.writeKey k) r :=
  writesOrKeeps_of_changed (fun h s t => readReg_writeKey_congr h s t k) fun h s => readReg_writeKey_frame h s k

theorem writesOrKeeps_writeCounter (c : DWord) (r : Reg) : WritesOrKeeps (·.writeCounter c) r :=
  writesOrKeeps_of_changed (fun h s t => readReg_writeCounter_congr h s t c)
    fun h s => readReg_writeCounter_frame h s c

theorem writesOrKeeps_writeOtp (o : OtpResult) (r : Reg) : WritesOrKeeps (·.writeOtp o) r :=
  writesOrKeeps_of_changed (fun h s t => readReg_writeOtp_congr h s t o) fun h s => readReg_writeOtp_frame h s o

theorem writesOrKeeps_wipeInputs {r : Reg} (hs : r ≠ .status) : WritesOrKeeps (·.wipeInputs) r :=
  writesOrKeeps_of_changed readReg_wipeInputs_congr fun h => readReg_wipeInputs_frame h hs

theorem writesOrKeeps_endCommand (e : ErrCode) {r : Reg} (hs : r ≠ .status) : WritesOrKeeps (·.endCommand e) r :=
  .inr fun s => readReg_endCommand_frame hs s e

/-- R92: whatever `Execute` answers, its completion reads none of the live registers it overwrites. -/
theorem writesOrKeeps_finish_execute (i : Instr) (snap : Inputs) {r : Reg} (hs : r ≠ .status) :
    WritesOrKeeps (·.finish (execute i snap)) r := by
  have hend : ∀ e, WritesOrKeeps (·.endCommand e) r := fun e => writesOrKeeps_endCommand e hs
  rcases execute_cases i snap with
    ⟨e, -, he⟩ | ⟨-, k, he⟩ | ⟨-, c, he⟩ | ⟨-, o, he⟩ | ⟨-, c, o, he⟩ | ⟨-, he⟩ <;> rw [he]
  · exact hend e
  · exact (hend .noError).comp (writesOrKeeps_writeKey k r)
  · exact (hend .noError).comp (writesOrKeeps_writeCounter c r)
  · exact (hend .noError).comp (writesOrKeeps_writeOtp o r)
  · exact (hend .noError).comp ((writesOrKeeps_writeOtp o r).comp (writesOrKeeps_writeCounter c r))
  · exact (hend .noError).comp (writesOrKeeps_wipeInputs hs)

/-- R31, R56: the error code after a completion is that of the outcome. -/
theorem finish_errcode_congr (s t : State) (out : Except ErrCode Writes) :
    (s.finish out).errcode = (t.finish out).errcode := by
  cases out <;> rfl

/-! ## The outcome of a command -/

/-- R55, R56: the next state of a command is the completion of `Execute` on the snapshot. -/
theorem exec_next_of_snapshot {i : Instr} {s t : State} {snap : Inputs} (hs : s.engine.snapshot = some snap)
    (h : exec i s = .next t) : t = s.finish (execute i snap) := by
  obtain ⟨op, snap', lat, he, ht⟩ := exec_next h
  rw [he] at hs
  cases hs
  exact ht

/-- Settles O29: both runs complete with the same outcome of `Execute`, and its writes do not read the state they are
applied to. -/
theorem outcomeDependsOnTheSnapshotAlone : Obligations.OutcomeDependsOnTheSnapshotAlone := by
  intro i s1 s2 t1 t2 snap h1 h2 e1 e2
  rw [exec_next_of_snapshot h1 e1, exec_next_of_snapshot h2 e2]
  refine ⟨finish_errcode_congr s1 s2 _, fun r _ hs => ?_⟩
  rcases writesOrKeeps_finish_execute i snap hs with hw | hk
  · exact .inl (hw s1 s2)
  · exact .inr ⟨hk s1, hk s2⟩

end Sys2Proof.Machine
end

section
/-! PROOFS. The register map: which register each offset names (R21, R48, R73), and what `STATUS`, the reset state and
a cleared result group show. -/

namespace Sys2Proof.Machine

/-! ## Offsets (R21) -/

/-- The offsets of the three register arrays fit the 12 bits of the window. -/
@[simp] theorem offset_digest_toNat (k : Fin 16) : (Reg.digest k).offset.toNat = 0x080 + 4 * k.val := by
  simp only [Reg.offset, BitVec.toNat_ofNat]; omega

@[simp] theorem offset_secret_toNat (k : Fin 64) : (Reg.secret k).offset.toNat = 0x100 + 4 * k.val := by
  simp only [Reg.offset, BitVec.toNat_ofNat]; omega

@[simp] theorem offset_key_toNat (k : Fin 40) : (Reg.key k).offset.toNat = 0x200 + 4 * k.val := by
  simp only [Reg.offset, BitVec.toNat_ofNat]; omega

/-- R73: a misaligned offset names no register. -/
theorem regAt_misaligned {off : BitVec 12} (h : off.toNat % 4 ≠ 0) : regAt off = none := by
  simp only [regAt, h, ne_eq, not_false_eq_true, if_true]

theorem regAt_scalar {off : BitVec 12} (ha : off.toNat % 4 = 0) (h : off.toNat < 0x080) :
    regAt off = scalarRegAt off.toNat := by
  simp only [regAt, ha, h, ne_eq, not_true_eq_false, if_false, if_true]

theorem regAt_digest {off : BitVec 12} (ha : off.toNat % 4 = 0) (h1 : 0x080 ≤ off.toNat) (h2 : off.toNat < 0x0C0) :
    regAt off = some (.digest (Fin.ofNat 16 ((off.toNat - 0x080) / 4))) := by
  simp only [regAt, ha, h2, Nat.not_lt.2 h1, ne_eq, not_true_eq_false, if_false, if_true]

theorem regAt_secret {off : BitVec 12} (ha : off.toNat % 4 = 0) (h1 : 0x100 ≤ off.toNat) (h2 : off.toNat < 0x200) :
    regAt off = some (.secret (Fin.ofNat 64 ((off.toNat - 0x100) / 4))) := by
  have n1 : ¬ off.toNat < 0x080 := by omega
  have n2 : ¬ off.toNat < 0x0C0 := by omega
  simp only [regAt, ha, n1, n2, h2, Nat.not_lt.2 h1, ne_eq, not_true_eq_false, if_false, if_true]

theorem regAt_key {off : BitVec 12} (ha : off.toNat % 4 = 0) (h1 : 0x200 ≤ off.toNat) (h2 : off.toNat < 0x2A0) :
    regAt off = some (.key (Fin.ofNat 40 ((off.toNat - 0x200) / 4))) := by
  have n1 : ¬ off.toNat < 0x080 := by omega
  have n2 : ¬ off.toNat < 0x0C0 := by omega
  have n3 : ¬ off.toNat < 0x100 := by omega
  simp only [regAt, ha, n1, n2, n3, h2, Nat.not_lt.2 h1, ne_eq, not_true_eq_false, if_false, if_true]

/-- R48: the two reserved ranges behind the digest and the key buffer. -/
theorem regAt_gap {off : BitVec 12} (h : (0x0C0 ≤ off.toNat ∧ off.toNat < 0x100) ∨ 0x2A0 ≤ off.toNat) :
    regAt off = none := by
  by_cases ha : off.toNat % 4 = 0
  · have n1 : ¬ off.toNat < 0x080 := by omega
    have n2 : ¬ off.toNat < 0x0C0 := by omega
    rcases h with ⟨-, h⟩ | h
    · simp only [regAt, ha, n1, n2, h, ne_eq, not_true_eq_false, if_false, if_true]
    · have n3 : ¬ off.toNat < 0x100 := by omega
      have n4 : ¬ off.toNat < 0x200 := by omega
      simp only [regAt, ha, n1, n2, n3, n4, Nat.not_lt.2 h, ne_eq, not_true_eq_false, if_false]
  · exact regAt_misaligned ha

theorem offset_of_scalarRegAt {n : Nat} {r : Reg} (h : scalarRegAt n = some r) : r.offset.toNat = n := by
  unfold scalarRegAt at h
  split at h <;> cases h <;> rfl

/-- R48: below 0x080 the aligned offsets from 0x054 on are the reserved ones. -/
theorem scalarRegAt_eq_none_iff {n : Nat} (ha : n % 4 = 0) : scalarRegAt n = none ↔ 0x054 ≤ n := by
  constructor
  · intro h
    by_contra hn
    obtain ⟨k, rfl⟩ : ∃ k, n = 4 * k := ⟨n / 4, by omega⟩
    have hk : k < 21 := by omega
    interval_cases k <;> cases h
  · intro h
    unfold scalarRegAt
    split
    case h_22 => rfl
    all_goals omega

/-- The aligned offsets, by the part of the map they lie in (R21, R48). -/
theorem offset_ranges (n : Nat) :
    n < 0x080 ∨ (0x080 ≤ n ∧ n < 0x0C0) ∨ (0x100 ≤ n ∧ n < 0x200) ∨ (0x200 ≤ n ∧ n < 0x2A0) ∨
      ((0x0C0 ≤ n ∧ n < 0x100) ∨ 0x2A0 ≤ n) := by omega

/-- The register at a register's offset is that register. -/
@[simp] theorem regAt_offset (r : Reg) : regAt r.offset = some r := by
  cases r with
  | digest k =>
    have h := offset_digest_toNat k
    rw [regAt_digest (by omega) (by omega) (by omega), h]
    simp
  | secret k =>
    have h := offset_secret_toNat k
    rw [regAt_secret (by omega) (by omega) (by omega), h]
    simp
  | key k =>
    have h := offset_key_toNat k
    rw [regAt_key (by omega) (by omega) (by omega), h]
    simp
  | _ => rfl

/-- An offset names no register but the one whose offset it is. -/
theorem offset_of_regAt {off : BitVec 12} {r : Reg} (h : regAt off = some r) : r.offset = off := by
  have ha : off.toNat % 4 = 0 := by
    by_contra ha
    rw [regAt_misaligned ha] at h
    cases h
  apply BitVec.eq_of_toNat_eq
  rcases offset_ranges off.toNat with hr | ⟨h1, h2⟩ | ⟨h1, h2⟩ | ⟨h1, h2⟩ | hr
  · rw [regAt_scalar ha hr] at h
    exact offset_of_scalarRegAt h
  · rw [regAt_digest ha h1 h2] at h
    cases h
    rw [offset_digest_toNat, Fin.val_ofNat]
    omega
  · rw [regAt_secret ha h1 h2] at h
    cases h
    rw [offset_secret_toNat, Fin.val_ofNat]
    omega
  · rw [regAt_key ha h1 h2] at h
    cases h
    rw [offset_key_toNat, Fin.val_ofNat]
    omega
  · rw [regAt_gap hr] at h
    cases h

theorem regAt_eq_none_iff (off : BitVec 12) : regAt off = none ↔ off.toNat % 4 ≠ 0 ∨ reservedOffset off := by
  by_cases ha : off.toNat % 4 = 0
  · simp only [ha, ne_eq, not_true_eq_false, false_or, reservedOffset]
    rcases offset_ranges off.toNat with hr | ⟨h1, h2⟩ | ⟨h1, h2⟩ | ⟨h1, h2⟩ | hr
    · rw [regAt_scalar ha hr, scalarRegAt_eq_none_iff ha]; omega
    · simp only [regAt_digest ha h1 h2, reduceCtorEq, false_iff]; omega
    · simp only [regAt_secret ha h1 h2, reduceCtorEq, false_iff]; omega
    · simp only [regAt_key ha h1 h2, reduceCtorEq, false_iff]; omega
    · simp only [regAt_gap hr, true_iff]; omega
  · simp [regAt_misaligned ha, ha]

/-- Settles O5: the register at an offset, range by range of the map. -/
theorem registerMapIsOneToOneAndReservedElsewhere : Obligations.RegisterMapIsOneToOneAndReservedElsewhere :=
  ⟨regAt_offset, fun _ _ => offset_of_regAt, regAt_eq_none_iff⟩

/-! ## The `STATUS` and `CTRL` words -/

theorem statusWord_busy (s : State) : s.statusWord.getLsbD 0 = s.busy := by
  simp only [State.statusWord, BitVec.getLsbD_append]
  simp

theorem statusWord_done (s : State) : s.statusWord.getLsbD 1 = s.done := by
  simp only [State.statusWord, BitVec.getLsbD_append]
  simp

theorem statusWord_err (s : State) : s.statusWord.getLsbD 2 = s.err := by
  simp only [State.statusWord, BitVec.getLsbD_append]
  simp

theorem statusWord_wdrop (s : State) : s.statusWord.getLsbD 3 = s.wdrop := by
  simp only [State.statusWord, BitVec.getLsbD_append]
  simp

theorem statusWord_errcode (s : State) : s.statusWord.extractLsb' 8 4 = s.errcode.code := by
  apply BitVec.eq_of_getLsbD_eq
  intro i hi
  simp only [State.statusWord, BitVec.getLsbD_append, BitVec.getLsbD_extractLsb']
  interval_cases i <;> simp

/-- R26: bits 7:4 and 31:12 of `STATUS` are reserved. -/
theorem statusWord_reserved (s : State) :
    s.statusWord.extractLsb' 4 4 = 0 ∧ s.statusWord.extractLsb' 12 20 = 0 := by
  constructor
  all_goals
    apply BitVec.eq_of_getLsbD_eq
    intro i hi
    simp only [State.statusWord, BitVec.getLsbD_append, BitVec.getLsbD_extractLsb']
    interval_cases i <;> simp

theorem ctrlWord_irqEn (s : State) : s.ctrlWord.getLsbD 0 = s.irqEn := by
  simp only [State.ctrlWord, BitVec.getLsbD_append]
  simp

/-- Settles O13: field by field of the word. -/
theorem statusWordShowsTheFlags : Obligations.StatusWordShowsTheFlags := by
  intro s
  have herr : s.statusWord.getLsbD 2 = true ↔ s.statusWord.extractLsb' 8 4 ≠ 0 := by
    rw [statusWord_err, statusWord_errcode, State.err, bne_iff_ne]
  exact ⟨statusWord_busy s, statusWord_done s, herr, statusWord_wdrop s, statusWord_errcode s, statusWord_reserved s⟩

/-! ## The reset state and a cleared result group -/

/-- R55, R59: with the result group at zero every result register reads 0. -/
theorem readReg_of_results_zero {s : State} {r : Reg} (hz : s.results = Results.zero) (hr : r.isResult = true) :
    readReg s r = 0 := by
  cases r with
  | keyLen | truncOff | trunc | code | otpAscii0 | otpAscii1 | digestLen => simp only [readReg, hz, Results.zero]
  | digest | key => simp [readReg, hz, Results.zero]
  | _ => cases hr

/-- Settles O20: register by register. -/
theorem resetValuesAreThoseOfTheMap : Obligations.ResetValuesAreThoseOfTheMap := by
  refine ⟨fun r => ?_, rfl, rfl⟩
  cases r with
  | digest | key => exact readReg_of_results_zero rfl rfl
  | secret k => exact Vector.getElem_replicate (n := 64) k.isLt
  | _ => rfl

end Sys2Proof.Machine
end

section
/-! PROOFS. What a step does to each flag and to the input group (R27, R28, R30, R31, R37, R57), and the steps that
start and end a command (R55, R56). -/

namespace Sys2Proof.Machine

/-! ## The access that is served -/

/-- A full-word write to a mapped register is `Write(off(r), d)`. -/
theorem access_eq_writeTo {a : Access} {r : Reg} {d : Word} (hr : a.reg = some r) (hk : a.kind = .write d 0b1111) :
    a = writeTo r d := by
  obtain ⟨off, size, kind⟩ := a
  simp only [Access.reg] at hr
  split at hr
  · next hsize =>
    cases offset_of_regAt hr
    simp only at hk hsize
    rw [hk, hsize, writeTo]
  · cases hr

@[simp] theorem writeTo_reg (r : Reg) (d : Word) : (writeTo r d).reg = some r := by
  simp [writeTo, Access.reg]

/-- The state after the step that serves `Write(off(r), d)` (R97, R270). -/
def State.written (s : State) (r : Reg) (d : Word) (l : Nat) : State :=
  ((s.tick.withPending s.pending.tail).hostWrite r d l).withReply (.write .okay)

theorem step_written {s : State} {r : Reg} {d : Word} {l : Nat} (h : s.served = some (writeTo r d, l)) :
    step s = .next (s.written r d l) := by
  have hk : (writeTo r d).kind = .write d 0b1111 := rfl
  rw [step_served h, State.written]
  simp only [State.serve, writeTo_reg, hk, if_true]

/-! ## Everything a step can do -/

/-- The step of a completion (R56). -/
theorem step_completing {s : State} (h : s.completing) :
    ∃ op snap lat, s.engine = .busy op snap lat ∧ s.engine.due = some op ∧
      step s = .next (s.finish (execute (decodeWord op) snap)) := by
  obtain ⟨hr, hd⟩ := h
  obtain ⟨op, hop⟩ := Option.ne_none_iff_exists'.1 hd
  obtain ⟨snap, lat, he, hl⟩ := due_some hop
  exact ⟨op, snap, lat, he, hop, by rw [step_due hr he hl, exec_busy _ he]⟩

/-- A step resets the block, completes a command, serves a full-word write to a register, or does nothing to the block
but let a cycle pass. -/
theorem step_effects {s t : State} (h : step s = .next t) :
    (s.resetting ∧ ∃ es, t = heldInReset es ∨ t = releasedFromReset es) ∨
    (∃ op snap lat, s.completing ∧ s.engine = .busy op snap lat ∧ s.engine.due = some op ∧
      t = s.finish (execute (decodeWord op) snap)) ∨
    (∃ r d l, s.served = some (writeTo r d, l) ∧ t = s.written r d l) ∨
    (s.rst = false ∧ s.engine.due = none ∧ ∃ es p, t = { s.tick with pending := es, reply := p }) := by
  rcases step_kinds h with ⟨hr, -⟩ | ⟨op, snap, lat, hr, he, hl, ht⟩ | ⟨a, l, hs, ht⟩ | ⟨hr, hd, -, -, ht⟩
  · exact .inl ⟨hr, resetting_next h hr⟩
  · have hd : s.engine.due = some op := by rw [he, Engine.due, if_pos hl]
    exact .inr (.inl ⟨op, snap, lat, ⟨hr, by rw [hd]; simp⟩, he, hd, ht⟩)
  · obtain ⟨hr, hd, -⟩ := served_some hs
    rcases serve_cases (s.tick.withPending s.pending.tail) a l with
      ⟨-, -, e⟩ | ⟨r, -, -, e⟩ | ⟨d, st, -, -, e⟩ | ⟨r, d, hk, hreg, e⟩
    · exact .inr (.inr (.inr ⟨hr, hd, _, _, ht.trans e⟩))
    · exact .inr (.inr (.inr ⟨hr, hd, _, _, ht.trans e⟩))
    · exact .inr (.inr (.inr ⟨hr, hd, _, _, ht.trans e⟩))
    · cases access_eq_writeTo hreg hk
      exact .inr (.inr (.inl ⟨r, d, l, hs, ht.trans e⟩))
  · exact .inr (.inr (.inr ⟨hr, hd, _, _, ht⟩))

/-- What the passing of a cycle and the writes served leave alone, every step leaves alone that neither completes nor
resets. -/
theorem step_keeps {α : Type} {s t : State} (f : State → α) (h : step s = .next t) (hc : ¬ s.completing)
    (hr : ¬ s.resetting) (hcycle : ∀ es p, f { s.tick with pending := es, reply := p } = f s)
    (hwrite : ∀ r d l, s.served = some (writeTo r d, l) → f (s.written r d l) = f s) : f t = f s := by
  rcases step_effects h with ⟨hr', -⟩ | ⟨-, -, -, hc', -⟩ | ⟨r, d, l, hs, rfl⟩ | ⟨-, -, es, p, rfl⟩
  · exact absurd hr' hr
  · exact absurd hc' hc
  · exact hwrite r d l hs
  · exact hcycle es p

/-- A reset step ends with the reset value of whatever depends on neither `rst` nor the schedule. -/
theorem resetting_value {α : Type} {s t : State} (f : State → α) (h : step s = .next t) (hr : s.resetting)
    (hheld : ∀ es, f (heldInReset es) = f State.reset) (hrel : ∀ es, f (releasedFromReset es) = f State.reset) :
    f t = f State.reset := by
  obtain ⟨es, rfl | rfl⟩ := resetting_next h hr
  · exact hheld es
  · exact hrel es

/-! ## Acceptance (R55) -/

/-- An accepted command leaves the state of R55, with the schedule one event on and the write answered. -/
theorem written_cmd {s : State} (hb : s.busy = false) (d : Word) (l : Nat) :
    s.written .cmd d l = ((s.withPending s.pending.tail).accept d l).withReply (.write .okay) := by
  rw [State.written, tick_of_not_busy hb, hostWrite_cmd (s := s.withPending s.pending.tail) hb]

theorem step_accepting {s t : State} (h : step s = .next t) (ha : s.accepting) :
    ∃ d l, t = ((s.withPending s.pending.tail).accept d l).withReply (.write .okay) := by
  obtain ⟨hb, d, l, hs⟩ := ha
  rw [step_written hs, written_cmd hb] at h
  cases h
  exact ⟨d, l, rfl⟩

/-! ## What a write changes only where the rule says so (R270) -/

section
variable (s : State) (r : Reg) (d : Word) (l : Nat)

theorem hostWrite_busy_eq (h : ¬ (r = .cmd ∧ s.busy = false)) : (s.hostWrite r d l).busy = s.busy := by
  rcases hostWrite_cases s r d l with ⟨-, e⟩ | ⟨-, e⟩ | ⟨-, e⟩ | ⟨-, -, e⟩ | ⟨hc, hb, -⟩ | ⟨-, -, -, e⟩
  case inr.inr.inr.inr.inl => exact absurd ⟨hc, hb⟩ h
  all_goals exact (congrArg State.busy e).trans rfl

theorem hostWrite_done_eq (h : ¬ (r = .cmd ∧ s.busy = false)) (hs : r ≠ .status) :
    (s.hostWrite r d l).done = s.done := by
  rcases hostWrite_cases s r d l with ⟨-, e⟩ | ⟨-, e⟩ | ⟨hst, -⟩ | ⟨-, -, e⟩ | ⟨hc, hb, -⟩ | ⟨-, -, -, e⟩
  case inr.inr.inl => exact absurd hst hs
  case inr.inr.inr.inr.inl => exact absurd ⟨hc, hb⟩ h
  all_goals exact (congrArg State.done e).trans rfl

theorem hostWrite_wdrop_eq (h : ¬ (r.isInput = true ∧ s.busy = true)) (hs : r ≠ .status) :
    (s.hostWrite r d l).wdrop = s.wdrop := by
  rcases hostWrite_cases s r d l with ⟨-, e⟩ | ⟨-, e⟩ | ⟨hst, -⟩ | ⟨hi, hb, -⟩ | ⟨-, -, e⟩ | ⟨-, -, -, e⟩
  case inr.inr.inl => exact absurd hst hs
  case inr.inr.inr.inl => exact absurd ⟨hi, hb⟩ h
  all_goals exact (congrArg State.wdrop e).trans rfl

theorem hostWrite_errcode_eq (h : ¬ (r = .cmd ∧ s.busy = false)) : (s.hostWrite r d l).errcode = s.errcode := by
  rcases hostWrite_cases s r d l with ⟨-, e⟩ | ⟨-, e⟩ | ⟨-, e⟩ | ⟨-, -, e⟩ | ⟨hc, hb, -⟩ | ⟨-, -, -, e⟩
  case inr.inr.inr.inr.inl => exact absurd ⟨hc, hb⟩ h
  all_goals exact (congrArg State.errcode e).trans rfl

theorem hostWrite_inputs_eq (h : ¬ (r.isInput = true ∧ s.busy = false)) : (s.hostWrite r d l).inputs = s.inputs := by
  rcases hostWrite_cases s r d l with ⟨-, e⟩ | ⟨-, e⟩ | ⟨-, e⟩ | ⟨-, -, e⟩ | ⟨-, -, e⟩ | ⟨hi, -, hb, -⟩
  case inr.inr.inr.inr.inr => exact absurd ⟨hi, hb⟩ h
  all_goals exact (congrArg State.inputs e).trans rfl

/-! The same of the whole step: the cycle that passes and the answer change none of these. -/

theorem written_busy_eq (h : ¬ (r = .cmd ∧ s.busy = false)) : (s.written r d l).busy = s.busy :=
  (hostWrite_busy_eq _ r d l (by simpa using h)).trans (tick_busy s)

theorem written_done_eq (h : ¬ (r = .cmd ∧ s.busy = false)) (hs : r ≠ .status) : (s.written r d l).done = s.done :=
  hostWrite_done_eq _ r d l (by simpa using h) hs

theorem written_wdrop_eq (h : ¬ (r.isInput = true ∧ s.busy = true)) (hs : r ≠ .status) :
    (s.written r d l).wdrop = s.wdrop :=
  hostWrite_wdrop_eq _ r d l (by simpa using h) hs

theorem written_errcode_eq (h : ¬ (r = .cmd ∧ s.busy = false)) : (s.written r d l).errcode = s.errcode :=
  hostWrite_errcode_eq _ r d l (by simpa using h)

theorem written_inputs_eq (h : ¬ (r.isInput = true ∧ s.busy = false)) : (s.written r d l).inputs = s.inputs :=
  hostWrite_inputs_eq _ r d l (by simpa using h)

end

/-- Outside an acceptance a served write is no `CMD` write to an idle block. -/
theorem not_cmd_write_of_not_accepting {s : State} (ha : ¬ s.accepting) {r : Reg} {d : Word} {l : Nat}
    (hs : s.served = some (writeTo r d, l)) : ¬ (r = .cmd ∧ s.busy = false) := by
  rintro ⟨rfl, hb⟩
  exact ha ⟨hb, d, l, hs⟩

/-! ## Which word a command was decoded from (R92) -/

theorem encode_decodeWord (w : Word) : encode (decodeWord w) = w := by
  rw [decodeWord_eq]
  split_ifs with h1 h2 h3 h4 h5
  · exact h1.symm
  · exact h2.symm
  · exact h3.symm
  · exact h4.symm
  · exact h5.symm
  · rfl

theorem word_of_decodeWord {w : Word} {i : Instr} (h : decodeWord w = i) : w = encode i := by
  rw [← h, encode_decodeWord]

theorem decodeWord_eq_clear_iff (w : Word) : decodeWord w = .clear ↔ w = 0x00000005 :=
  ⟨fun h => word_of_decodeWord h, fun h => by rw [h]; decide⟩

/-! ## What a completion changes only where the rule says so (R92) -/

/-- R30: of all completions only that of `CLEAR` writes WDROP. -/
theorem finish_execute_wdrop (s : State) (i : Instr) (inp : Inputs) :
    (s.finish (execute i inp)).wdrop = if i = .clear then false else s.wdrop := by
  by_cases hc : i = .clear
  · subst hc; rfl
  · rw [if_neg hc]
    rcases execute_cases i inp with
      ⟨e, -, h⟩ | ⟨-, k, h⟩ | ⟨-, c, h⟩ | ⟨-, o, h⟩ | ⟨-, c, o, h⟩ | ⟨hi, -⟩
    case inr.inr.inr.inr.inr => exact absurd hi hc
    all_goals rw [h]; rfl

/-- R37, R92, R220: the commands that write the input group, and that only `CLEAR` writes `TIME`. -/
theorem finish_execute_inputs (s : State) (i : Instr) (inp : Inputs) :
    (s.finish (execute i inp)).inputs = s.inputs ∨
    ((i = .counter ∨ i = .totp) ∧ (s.finish (execute i inp)).inputs.time = s.inputs.time) ∨ i = .clear := by
  rcases execute_cases i inp with
    ⟨e, -, h⟩ | ⟨-, k, h⟩ | ⟨hi, c, h⟩ | ⟨-, o, h⟩ | ⟨hi, c, o, h⟩ | ⟨hi, -⟩
  · rw [h]; exact .inl rfl
  · rw [h]; exact .inl rfl
  · rw [h]; exact .inr (.inl ⟨.inl hi, rfl⟩)
  · rw [h]; exact .inl rfl
  · rw [h]; exact .inr (.inl ⟨.inr hi, rfl⟩)
  · exact .inr (.inr hi)

/-- R46: no command but `DECODE` writes the key buffer or `KEY_LEN`. -/
theorem finish_execute_key (s : State) {i : Instr} (inp : Inputs) (hi : i ≠ .decode) {r : Reg}
    (hr : r.isKeyResult = true) : readReg (s.finish (execute i inp)) r = readReg s r := by
  have hs : r ≠ .status := by rintro rfl; cases hr
  have hn : r.isCounter = false ∧ r.isOtpResult = false ∧ r.isInput = false := by
    cases r with
    | keyLen | key => exact ⟨rfl, rfl, rfl⟩
    | _ => cases hr
  obtain ⟨hcnt, hotp, hin⟩ := hn
  rcases execute_cases i inp with
    ⟨e, -, h⟩ | ⟨hd, -⟩ | ⟨-, c, h⟩ | ⟨-, o, h⟩ | ⟨-, c, o, h⟩ | ⟨-, h⟩
  case inr.inl => exact absurd hd hi
  all_goals rw [h]
  · exact readReg_endCommand_frame hs _ _
  · exact (readReg_endCommand_frame hs _ _).trans (readReg_writeCounter_frame hcnt _ _)
  · exact (readReg_endCommand_frame hs _ _).trans (readReg_writeOtp_frame hotp _ _)
  · exact (readReg_endCommand_frame hs _ _).trans
      ((readReg_writeOtp_frame hotp _ _).trans (readReg_writeCounter_frame hcnt _ _))
  · exact (readReg_endCommand_frame hs _ _).trans (readReg_wipeInputs_frame hin hs _)

/-! ## The obligations -/

/-- Settles O6: a due word runs `exec`, and `withFetchWord` makes its word due. -/
theorem stepRunsTheAcceptedCommand : Obligations.StepRunsTheAcceptedCommand := by
  refine ⟨fun s op snap lat i hr he hl hdec => ?_, fun s w => ?_⟩
  · have hi : decodeWord op = i := by
      have h := (decodeBytes_wordBytes op []).symm.trans hdec
      simpa using h
    rw [step_due hr he hl, hi]
  · have hw : s.withFetchWord 32 w.toNat = s.startCommand w := by
      rw [State.withFetchWord, Nat.mod_eq_of_lt w.isLt, BitVec.ofNat_toNat, BitVec.setWidth_eq]
    rw [hw]
    exact ⟨step_due rfl rfl (Nat.le_refl 1), rfl⟩

/-- R26, R55: after an acceptance `STATUS` shows BUSY, and WDROP as it was. -/
theorem accept_statusWord (s : State) (d : Word) (l : Nat) :
    (s.accept d l).statusWord = if s.wdrop then 0x00000009 else 0x00000001 := by
  simp only [State.statusWord, State.err, State.busy, State.accept_errcode, State.accept_done, State.accept_wdrop,
    State.accept_engine, Engine.running]
  cases s.wdrop <;> decide

/-- Settles O8: the next state is that of R55, field by field. -/
theorem acceptanceSnapshotsInputsAndClearsResults : Obligations.AcceptanceSnapshotsInputsAndClearsResults := by
  intro s d l hb hs
  obtain ⟨hr, -, -⟩ := served_some hs
  have hstep := step_written hs
  rw [written_cmd hb] at hstep
  exact ⟨_, hstep, rfl, fun _ h => readReg_of_results_zero rfl h, rfl, rfl, rfl, rfl, rfl,
    accept_statusWord (s.withPending s.pending.tail) d l, hr, rfl, rfl⟩

/-- Settles O9, by the kind of step: only an accepted `CMD` write changes BUSY in the service of an access. -/
theorem busyChangesOnlyAtAcceptanceCompletionAndReset :
    Obligations.BusyChangesOnlyAtAcceptanceCompletionAndReset := by
  intro s t h
  refine ⟨fun ha => ?_, fun hc => ?_, fun hr => ?_, fun ha hc hr => ?_⟩
  · obtain ⟨d, l, rfl⟩ := step_accepting h ha
    rfl
  · obtain ⟨op, snap, lat, -, -, hs⟩ := step_completing hc
    cases hs.symm.trans h
    obtain ⟨-, -, -, -, hidle, -⟩ := finish_frame s (execute (decodeWord op) snap)
    rw [State.busy, hidle]; rfl
  · exact resetting_value State.busy h hr (fun _ => rfl) fun _ => rfl
  · exact step_keeps State.busy h hc hr (fun _ _ => tick_busy s) fun r d l hs =>
      written_busy_eq s r d l (not_cmd_write_of_not_accepting ha hs)

/-- Settles O10, by the kind of step: only a `STATUS` write or an acceptance changes DONE in the service of an
access. -/
theorem doneIsSetByCompletionAndClearedAsListed : Obligations.DoneIsSetByCompletionAndClearedAsListed := by
  intro s t h
  refine ⟨fun hc => ?_, fun ha => ?_, fun hr => ?_, fun d l hs => ?_, fun hc ha hr hst => ?_⟩
  · obtain ⟨op, snap, lat, -, -, hs⟩ := step_completing hc
    cases hs.symm.trans h
    obtain ⟨-, -, -, -, -, hdone⟩ := finish_frame s (execute (decodeWord op) snap)
    exact hdone
  · obtain ⟨d, l, rfl⟩ := step_accepting h ha
    rfl
  · exact resetting_value State.done h hr (fun _ => rfl) fun _ => rfl
  · cases (step_written hs).symm.trans h
    show (s.done && !d.getLsbD 1) = _
    cases d.getLsbD 1 <;> simp
  · refine step_keeps State.done h hc hr (fun _ _ => rfl) fun r d l hs =>
      written_done_eq s r d l (not_cmd_write_of_not_accepting ha hs) ?_
    rintro rfl
    exact hst d l hs

/-- Settles O11, by the kind of step: only a `STATUS` write or a dropped write changes WDROP in the service of an
access. -/
theorem wdropIsStickyUntilClearedAsListed : Obligations.WdropIsStickyUntilClearedAsListed := by
  intro s t h
  refine ⟨fun r d l hb hi hs => ?_, fun d l hs => ?_, fun hc => ?_, fun hr => ?_, fun ha => ?_,
    fun hc hr hin hst => ?_⟩
  · cases (step_written hs).symm.trans h
    rw [State.written, hostWrite_busy hi (by simpa using hb)]
    rfl
  · cases (step_written hs).symm.trans h
    show (s.wdrop && !d.getLsbD 3) = _
    cases d.getLsbD 3 <;> simp
  · obtain ⟨op, snap, lat, -, hd, hs⟩ := step_completing hc
    cases hs.symm.trans h
    simp only [finish_execute_wdrop, decodeWord_eq_clear_iff, hd, Option.some.injEq]
  · exact resetting_value State.wdrop h hr (fun _ => rfl) fun _ => rfl
  · obtain ⟨d, l, rfl⟩ := step_accepting h ha
    rfl
  · refine step_keeps State.wdrop h hc hr (fun _ _ => rfl) fun r d l hs => written_wdrop_eq s r d l ?_ ?_
    · rintro ⟨hi, hb⟩
      exact hin r d l hb hi hs
    · rintro rfl
      exact hst d l hs

/-- Settles O12, by the kind of step: only an acceptance changes ERRCODE in the service of an access. -/
theorem errcodeHoldsTheOutcomeUntilTheNextAcceptance :
    Obligations.ErrcodeHoldsTheOutcomeUntilTheNextAcceptance := by
  intro s t h
  refine ⟨fun ha => ?_, fun op snap lat hr he hl => ?_, fun hr => ?_, fun hc ha hr => ?_⟩
  · obtain ⟨d, l, rfl⟩ := step_accepting h ha
    rfl
  · rw [step_due hr he hl, exec_busy _ he] at h
    cases h
    exact ⟨fun w hw => by rw [hw]; rfl, fun e he => by rw [he]; rfl⟩
  · exact resetting_value State.errcode h hr (fun _ => rfl) fun _ => rfl
  · exact step_keeps State.errcode h hc hr (fun _ _ => rfl) fun r d l hs =>
      written_errcode_eq s r d l (not_cmd_write_of_not_accepting ha hs)

/-- Settles O14, from what each kind of step makes of DONE and IRQ_EN. -/
theorem irqIsDoneAndEnable : Obligations.IrqIsDoneAndEnable := by
  refine ⟨fun s => ?_, fun s t h => ⟨fun hc => ?_, fun ha => ?_, fun hr => ?_, fun d l hs => ?_, fun d l hs => ?_⟩⟩
  · show s.irq = (s.statusWord.getLsbD 1 && s.ctrlWord.getLsbD 0)
    rw [statusWord_done, ctrlWord_irqEn, State.irq]
  · obtain ⟨op, snap, lat, -, -, hs⟩ := step_completing hc
    cases hs.symm.trans h
    obtain ⟨hen, -, -, -, -, hdone⟩ := finish_frame s (execute (decodeWord op) snap)
    rw [State.irq, hdone, hen, Bool.true_and]
  · obtain ⟨d, l, rfl⟩ := step_accepting h ha
    rfl
  · exact resetting_value State.irq h hr (fun _ => rfl) fun _ => rfl
  · cases (step_written hs).symm.trans h
    rfl
  · cases (step_written hs).symm.trans h
    show ((s.done && !d.getLsbD 1) && s.irqEn) = ((s.done && s.irqEn) && !d.getLsbD 1)
    exact Bool.and_right_comm _ _ _

/-- Settles O27: by the kinds of step; a cycle that passes never changes the input group. -/
theorem inputsChangeOnlyByHostCommandOrReset : Obligations.InputsChangeOnlyByHostCommandOrReset := by
  intro s t h hne
  rcases step_effects h with ⟨hr, -⟩ | ⟨op, snap, lat, hc, -, hd, rfl⟩ | ⟨r, d, l, hs, rfl⟩ | ⟨-, -, es, p, rfl⟩
  · exact .inr (.inr hr)
  · refine .inr (.inl ⟨hc.1, op, hd, ?_⟩)
    rcases finish_execute_inputs s (decodeWord op) snap with hin | ⟨hi, htime⟩ | hi
    · exact absurd hin hne
    · refine ⟨?_, fun _ => htime⟩
      rcases hi with hi | hi
      · exact .inl (word_of_decodeWord hi)
      · exact .inr (.inl (word_of_decodeWord hi))
    · have h5 : op = 5 := word_of_decodeWord hi
      exact ⟨.inr (.inr h5), fun h => absurd h5 h⟩
  · by_cases hw : r.isInput = true ∧ s.busy = false
    · exact .inl ⟨hw.2, r, d, l, hw.1, hs⟩
    · exact absurd (written_inputs_eq s r d l hw) hne
  · exact absurd rfl hne

/-- Settles O54: the acceptance clears the key registers, and neither command writes them. -/
theorem otpCommandsDoNotExposeTheKey : Obligations.OtpCommandsDoNotExposeTheKey := by
  intro s op hop
  have hi : decodeWord op ≠ .decode := by rcases hop with rfl | rfl <;> decide
  have hzero : ∀ r : Reg, r.isKeyResult = true → r.isResult = true →
      readReg ((s.startCommand op).finish (execute (decodeWord op) s.inputs)) r = 0 := fun r hk hr =>
    (finish_execute_key _ _ hi hk).trans (readReg_of_results_zero rfl hr)
  exact ⟨_, runCommand_eq s op, hzero .keyLen rfl rfl, fun k => hzero (.key k) rfl rfl⟩

end Sys2Proof.Machine
end

section
/-! PROOFS. The invariant of the block: the range of every result a command writes, and why each operation of the block
keeps `State.Inv` (R32, R38 to R47, R55, R56, R260). -/

namespace Sys2Proof.Machine

/-! ## The length of a RawKey (R116) -/

/-- The bits a decoder has taken in: those of the emitted bytes and those still in the accumulator. -/
def Decoder.bits (d : Decoder) : Nat := 8 * d.out.length + d.nacc

/-- R115: a symbol adds five bits, and less than a byte stays in the accumulator. -/
theorem symbol_bits {d : Decoder} (h : d.nacc < 8) (v : BitVec 5) :
    (d.symbol v).bits = d.bits + 5 ∧ (d.symbol v).nacc < 8 := by
  by_cases h8 : 8 ≤ d.nacc + 5
  · simp only [Decoder.symbol, Decoder.bits, h8, if_true, List.length_append, List.length_singleton]; omega
  · simp only [Decoder.symbol, Decoder.bits, h8, if_false]; omega

theorem foldl_symbol_bits {α : Type} (f : α → BitVec 5) (chars : List α) {d : Decoder} (h : d.nacc < 8) :
    (chars.foldl (fun (d : Decoder) c => d.symbol (f c)) d).bits = d.bits + 5 * chars.length ∧
      (chars.foldl (fun (d : Decoder) c => d.symbol (f c)) d).nacc < 8 := by
  induction chars generalizing d with
  | nil => exact ⟨rfl, h⟩
  | cons c cs ih =>
    obtain ⟨hb, hn⟩ := symbol_bits h (f c)
    obtain ⟨ihb, ihn⟩ := ih hn
    refine ⟨?_, ihn⟩
    rw [List.foldl_cons, ihb, hb, List.length_cons]
    omega

/-- R116: `n` symbols make `floor(5n / 8)` bytes. -/
theorem decodeChars_length (chars : List Byte) : (decodeChars chars).length = chars.length * 5 / 8 := by
  obtain ⟨hb, hn⟩ := foldl_symbol_bits (fun c => (b32val c).getD 0) chars (d := decoderStart) (by decide)
  have h0 : decoderStart.bits = 0 := rfl
  rw [h0, Decoder.bits] at hb
  rw [decodeChars]
  omega

/-- R116: the RawKey of a secret of legal length fits the key buffer. -/
theorem decodeSecret_length_le {inp : Inputs} (h : inp.V1) : (decodeSecret inp).length ≤ 160 := by
  obtain ⟨-, hmax, -⟩ := h
  rw [decodeSecret, decodeChars_length, Inputs.secretChars, List.length_map, List.length_range]
  omega

/-! ## The ranges of the OTP results (R39, R40, R41, R43) -/

/-- R154: the truncated value has its top bit masked. -/
theorem truncatedValue_lt (d : List Byte) : (truncatedValue d).toNat < 2 ^ 31 := by
  have hmsb : (truncatedValue d).msb = false := by
    simp [truncatedValue, BitVec.msb_eq_getLsbD_last]
  have h := BitVec.msb_eq_false_iff_two_mul_lt.1 hmsb
  omega

/-- R155: a code of at most 8 digits is below 10^8. -/
theorem otpCode_lt (d : List Byte) {digits : Nat} (h : digits ≤ 8) : otpCode d digits < 10 ^ 8 :=
  calc otpCode d digits < 10 ^ digits := Nat.mod_lt _ (Nat.pow_pos (by decide))
    _ ≤ 10 ^ 8 := Nat.pow_le_pow_right (by decide) h

/-! ## The invariant, taken apart -/

/-- What `State.Inv` says of the result group alone. -/
structure Results.InRange (r : Results) : Prop where
  keyLen : r.keyLen.toNat ≤ 160
  keyTail : ∀ i, r.keyLen.toNat ≤ i → bufferByte r.key i = 0
  digestLen : r.digestLen = 0 ∨ r.digestLen = 20 ∨ r.digestLen = 32 ∨ r.digestLen = 64
  digestTail : ∀ i, r.digestLen.toNat ≤ i → bufferByte r.digest i = 0
  truncOff : r.truncOff.toNat < 16
  trunc : r.trunc.toNat < 2 ^ 31
  code : r.code.toNat < 10 ^ 8
  keyHidden : r.digestLen ≠ 0 → r.keyLen = 0

theorem State.Inv.inRange {s : State} (h : s.Inv) : s.results.InRange where
  keyLen := h.keyLen
  keyTail := h.keyTail
  digestLen := h.digestLen
  digestTail := h.digestTail
  truncOff := h.truncOff
  trunc := h.trunc
  code := h.code
  keyHidden := h.keyHidden

/-- The invariant from its parts on the inputs, the engine, the results and the reset level. -/
theorem inv_of_inRange {s : State} (hcfg : s.inputs.config &&& ~~~configMask = 0)
    (hrun : ∀ op snap lat, s.engine = .busy op snap lat →
      snap = s.inputs ∧ s.results = Results.zero ∧ s.done = false ∧ s.errcode = .noError ∧ 1 ≤ lat)
    (herr : s.errcode ≠ .noError → s.results = Results.zero) (hres : s.results.InRange)
    (hheld : s.rst = true → s = heldInReset s.pending) : s.Inv where
  config := hcfg
  running := hrun
  error := herr
  keyLen := hres.keyLen
  keyTail := hres.keyTail
  digestLen := hres.digestLen
  digestTail := hres.digestTail
  truncOff := hres.truncOff
  trunc := hres.trunc
  code := hres.code
  keyHidden := hres.keyHidden
  held := hheld

/-- An idle block outside reset meets the invariant if its inputs and results do and no result stands beside an
error. -/
theorem inv_of_idle {s : State} (hidle : s.engine = .idle) (hrst : s.rst = false)
    (hcfg : s.inputs.config &&& ~~~configMask = 0) (herr : s.errcode ≠ .noError → s.results = Results.zero)
    (hres : s.results.InRange) : s.Inv :=
  inv_of_inRange hcfg (fun _ _ _ h => by rw [hidle] at h; cases h) herr hres (fun h => by rw [hrst] at h; cases h)

theorem inRange_zero : Results.zero.InRange where
  keyLen := by decide
  keyTail := fun i _ => bufferByte_zero 40 i
  digestLen := .inl rfl
  digestTail := fun i _ => bufferByte_zero 16 i
  truncOff := by decide
  trunc := by decide
  code := by decide
  keyHidden := fun _ => rfl

/-! ## Reset (R59, R260) -/

theorem reset_config : Inputs.reset.config &&& ~~~configMask = 0 := by decide

theorem inv_releasedFromReset (es : List Event) : (releasedFromReset es).Inv :=
  inv_of_idle rfl rfl reset_config (fun _ => rfl) inRange_zero

theorem inv_heldInReset (es : List Event) : (heldInReset es).Inv :=
  inv_of_inRange reset_config (fun _ _ _ h => by cases h) (fun _ => rfl) inRange_zero fun _ => rfl

/-- Settles O24: the reset state is the released one with nothing arriving. -/
theorem invariantHoldsAtReset : Obligations.InvariantHoldsAtReset := inv_releasedFromReset []

/-! ## The port -/

/-- An update keeps the invariant if it leaves the inputs, the results, ERRCODE and the engine, does not set DONE, and
ends outside reset. -/
theorem State.Inv.of_frame {s t : State} (h : s.Inv) (hrst : t.rst = false) (hinp : t.inputs = s.inputs)
    (hres : t.results = s.results) (herr : t.errcode = s.errcode) (heng : t.engine = s.engine)
    (hdone : s.done = false → t.done = false) : t.Inv := by
  refine inv_of_inRange ?_ ?_ ?_ (hres ▸ h.inRange) (fun hr => by rw [hrst] at hr; cases hr)
  · rw [hinp]; exact h.config
  · intro op snap lat hb
    obtain ⟨h1, h2, h3, h4, h5⟩ := h.running op snap lat (heng ▸ hb)
    exact ⟨h1.trans hinp.symm, hres.trans h2, hdone h3, herr.trans h4, h5⟩
  · rw [herr, hres]; exact h.error

/-- R54: the cycle that passes while no completion is due leaves at least one more. -/
theorem State.Inv.tick {s : State} (h : s.Inv) (hr : s.rst = false) (hd : s.engine.due = none) : s.tick.Inv := by
  refine inv_of_inRange h.config (fun op snap lat hb => ?_) h.error h.inRange (fun hr' => by
    rw [State.tick_rst, hr] at hr'; cases hr')
  cases he : s.engine with
  | idle => rw [State.tick_engine, he] at hb; cases hb
  | busy op' snap' lat' =>
    rw [State.tick_engine, he] at hb
    cases hb
    obtain ⟨h1, h2, h3, h4, -⟩ := h.running op snap lat' he
    have hl : ¬ lat' ≤ 1 := fun hl => by simp [he, Engine.due, hl] at hd
    exact ⟨h1, h2, h3, h4, by omega⟩

theorem State.Inv.withPending {s : State} (h : s.Inv) (hr : s.rst = false) (es : List Event) :
    (s.withPending es).Inv :=
  h.of_frame hr rfl rfl rfl rfl id

theorem State.Inv.withReply {s : State} (h : s.Inv) (hr : s.rst = false) (r : BusReply) : (s.withReply r).Inv :=
  h.of_frame hr rfl rfl rfl rfl id

/-- R55: what acceptance leaves meets the clause on running commands. -/
theorem State.Inv.accept {s : State} (h : s.Inv) (hr : s.rst = false) (d : Word) (l : Nat) : (s.accept d l).Inv :=
  inv_of_inRange h.config
    (fun _ _ _ hb => by cases hb; exact ⟨rfl, rfl, rfl, rfl, Nat.le_max_right _ _⟩)
    (fun _ => rfl) inRange_zero (fun hr' => by rw [State.accept_rst, hr] at hr'; cases hr')

/-- R32: no write sets a reserved bit of `CONFIG`. -/
theorem write_config_reserved {inp : Inputs} (h : inp.config &&& ~~~configMask = 0) (r : Reg) (d : Word) :
    (inp.write r d).config &&& ~~~configMask = 0 := by
  rw [write_config]
  split
  · rw [BitVec.and_assoc, show configMask &&& ~~~configMask = 0 by decide]
    exact BitVec.and_zero
  · exact h

/-- R270: every arm of `HostWrite` keeps the invariant. -/
theorem State.Inv.hostWrite {s : State} (h : s.Inv) (hr : s.rst = false) (r : Reg) (d : Word) (l : Nat) :
    (s.hostWrite r d l).Inv := by
  rcases hostWrite_cases s r d l with ⟨-, e⟩ | ⟨-, e⟩ | ⟨-, e⟩ | ⟨-, -, e⟩ | ⟨-, -, e⟩ | ⟨-, -, hb, e⟩ <;> rw [e]
  · exact h
  · exact h.of_frame hr rfl rfl rfl rfl id
  · exact h.of_frame hr rfl rfl rfl rfl fun hd => by rw [State.writeStatus_done, hd, Bool.false_and]
  · exact h.of_frame hr rfl rfl rfl rfl id
  · exact h.accept hr d l
  · exact inv_of_idle (idle_of_not_busy hb) hr (write_config_reserved h.config r d) h.error h.inRange

/-- R70 to R75: the service of an access keeps the invariant. -/
theorem State.Inv.serve {s : State} (h : s.Inv) (hr : s.rst = false) (a : Access) (l : Nat) : (s.serve a l).Inv := by
  rcases serve_cases s a l with ⟨-, -, e⟩ | ⟨r, -, -, e⟩ | ⟨d, st, -, -, e⟩ | ⟨r, d, -, -, e⟩ <;> rw [e]
  · exact h.withReply hr _
  · exact h.withReply hr _
  · exact h.withReply hr _
  · obtain ⟨hrst, -, -⟩ := hostWrite_port s r d l
    exact (h.hostWrite hr r d l).withReply (hrst.trans hr) _

/-! ## Completion (R56) -/

/-- R44: past the packed bytes a buffer reads 0x00. -/
theorem bufferByte_packBuffer_tail (n : Nat) {bytes : List Byte} {i : Nat} (hi : bytes.length ≤ i) :
    bufferByte (packBuffer n bytes) i = 0 := by
  rcases Nat.lt_or_ge i (4 * n) with h | h
  · rw [bufferByte_packBuffer n bytes i h, List.getD_eq_default _ _ hi]
  · exact bufferByte_outside _ _ h

/-- R38, R46: a RawKey that fits leaves a cleared result group in range. -/
theorem inRange_key {s : State} (hz : s.results = Results.zero) {k : List Byte} (hk : k.length ≤ 160) :
    (s.writeKey k).results.InRange := by
  have hlen : (BitVec.ofNat 32 k.length).toNat = k.length := by rw [BitVec.toNat_ofNat]; omega
  rw [State.writeKey_results, hz]
  exact {
    keyLen := hlen.trans_le hk
    keyTail := fun i hi => bufferByte_packBuffer_tail 40 (hlen.symm.trans_le hi)
    digestLen := inRange_zero.digestLen
    digestTail := inRange_zero.digestTail
    truncOff := inRange_zero.truncOff
    trunc := inRange_zero.trunc
    code := inRange_zero.code
    keyHidden := fun h => absurd rfl h }

/-- R39 to R41, R43, R47: so does `OTPCore` for legal digits, and no key stands beside its digest. -/
theorem inRange_otp {s : State} (hz : s.results = Results.zero) {inp : Inputs} (h3 : inp.V3) (alg : Alg) (c : DWord) :
    (s.writeOtp (otpCore inp alg c)).results.InRange := by
  have hdigits : inp.digits ≤ 8 := by rcases h3 with h | h | h <;> omega
  have hoff := truncationOffset_lt (hmac alg (decodeSecret inp) (be64 c))
  have hcode := otpCode_lt (hmac alg (decodeSecret inp) (be64 c)) hdigits
  have hlen : (BitVec.ofNat 32 alg.digestLen).toNat = alg.digestLen := by cases alg <;> rfl
  rw [State.writeOtp_results, hz, otpCore_digest, hmac_length]
  exact {
    keyLen := inRange_zero.keyLen
    keyTail := inRange_zero.keyTail
    digestLen := by cases alg <;> simp [Alg.digestLen]
    digestTail := fun i hi => bufferByte_packBuffer_tail 16 (by rw [hmac_length]; exact hlen.symm.trans_le hi)
    truncOff := (Nat.mod_le _ _).trans_lt hoff
    trunc := truncatedValue_lt _
    code := (Nat.mod_le _ _).trans_lt hcode
    keyHidden := fun _ => rfl }

/-- R120: `DECODE` succeeds only on a secret of legal length, and writes its RawKey. -/
theorem executeDecode_success {inp : Inputs} {w : Writes} (h : executeDecode inp = .ok w) :
    inp.V1 ∧ w = { key := some (decodeSecret inp) } := by
  by_cases h1 : inp.V1
  · by_cases h2 : inp.V2
    · cases (executeDecode_ok h1 h2).symm.trans h
      exact ⟨h1, rfl⟩
    · cases (executeDecode_V2 h1 h2).symm.trans h
  · cases (executeDecode_V1 h1).symm.trans h

/-- R162: the checks `HOTP` and `TOTP` share let only legal digits through. -/
theorem checkOtpInputs_success {inp : Inputs} {alg : Alg} (h : checkOtpInputs inp = .ok alg) : inp.V3 := by
  rcases checkOtpInputs_cases inp with ⟨-, e⟩ | ⟨-, -, e⟩ | ⟨-, -, -, e⟩ | ⟨-, -, -, -, e⟩ | ⟨-, -, -, h3, -, -⟩
  case inr.inr.inr.inr => exact h3
  all_goals cases e.symm.trans h

/-- R164: `HOTP` succeeds only on legal digits, and writes `OTPCore`. -/
theorem executeHotp_success {inp : Inputs} {w : Writes} (h : executeHotp inp = .ok w) :
    ∃ alg, inp.V3 ∧ w = { otp := some (otpCore inp alg inp.counter) } := by
  cases hc : checkOtpInputs inp with
  | error e => cases (executeHotp_error hc).symm.trans h
  | ok alg =>
    cases (executeHotp_ok hc).symm.trans h
    exact ⟨alg, checkOtpInputs_success hc, rfl⟩

/-- R165: `TOTP` succeeds only on legal digits, and writes `COUNTER` and `OTPCore`. -/
theorem executeTotp_success {inp : Inputs} {w : Writes} (h : executeTotp inp = .ok w) :
    ∃ alg, inp.V3 ∧ w = { counter := some (timeCounter inp), otp := some (otpCore inp alg (timeCounter inp)) } := by
  cases hc : checkOtpInputs inp with
  | error e => cases (executeTotp_error hc).symm.trans h
  | ok alg =>
    by_cases h5 : inp.V5
    · cases (executeTotp_ok hc h5).symm.trans h
      exact ⟨alg, checkOtpInputs_success hc, rfl⟩
    · cases (executeTotp_V5 hc h5).symm.trans h

/-- The results a successful command writes on a cleared result group are in range. -/
theorem inRange_of_success {s : State} (hz : s.results = Results.zero) {i : Instr} {inp : Inputs} {w : Writes}
    (h : execute i inp = .ok w) : (s.applyWrites w).results.InRange := by
  have hzero : s.results.InRange := hz ▸ inRange_zero
  cases i with
  | decode =>
    obtain ⟨h1, rfl⟩ := executeDecode_success h
    exact inRange_key hz (decodeSecret_length_le h1)
  | counter =>
    by_cases h5 : inp.V5
    · cases (executeCounter_ok h5).symm.trans h
      exact hzero
    · cases (executeCounter_V5 h5).symm.trans h
  | hotp =>
    obtain ⟨alg, h3, rfl⟩ := executeHotp_success h
    exact inRange_otp hz h3 alg _
  | totp =>
    obtain ⟨alg, h3, rfl⟩ := executeTotp_success h
    exact inRange_otp (s := s.writeCounter _) hz h3 alg _
  | clear =>
    cases h
    exact hzero
  | invalid => cases h

/-- R92: of `CONFIG` a completion leaves the value it had, or its reset value. -/
theorem finish_execute_config (s : State) (i : Instr) (inp : Inputs) :
    (s.finish (execute i inp)).inputs.config = s.inputs.config ∨
      (s.finish (execute i inp)).inputs.config = Inputs.reset.config := by
  rcases execute_cases i inp with
    ⟨e, -, h⟩ | ⟨-, k, h⟩ | ⟨-, c, h⟩ | ⟨-, o, h⟩ | ⟨-, c, o, h⟩ | ⟨-, h⟩ <;> rw [h]
  case inr.inr.inr.inr.inr => exact .inr rfl
  all_goals exact .inl rfl

/-- R56: the completion of any command keeps the invariant: acceptance has cleared the results it writes or leaves. -/
theorem State.Inv.completion {s : State} (h : s.Inv) (hr : s.rst = false) {op : Word} {snap : Inputs} {lat : Nat}
    (he : s.engine = .busy op snap lat) (i : Instr) : (s.finish (execute i snap)).Inv := by
  obtain ⟨-, hz, -, -, -⟩ := h.running op snap lat he
  obtain ⟨-, hrst, -⟩ := finish_frame s (execute i snap)
  have hcfg : (s.finish (execute i snap)).inputs.config &&& ~~~configMask = 0 := by
    rcases finish_execute_config s i snap with hc | hc <;> rw [hc]
    · exact h.config
    · exact reset_config
  cases hx : execute i snap with
  | error e =>
    rw [hx] at hcfg
    exact inv_of_idle rfl hr hcfg (fun _ => hz) (hz ▸ inRange_zero)
  | ok w =>
    rw [hx] at hcfg hrst
    exact inv_of_idle rfl (hrst.trans hr) hcfg (fun hne => absurd rfl hne) (inRange_of_success hz hx)

/-- Settles O25: each effect a step can have keeps the invariant. -/
theorem everyStepKeepsTheInvariant : Obligations.EveryStepKeepsTheInvariant := by
  intro s t h hs
  rcases step_kinds hs with ⟨hr, -⟩ | ⟨op, snap, lat, hr, he, -, rfl⟩ | ⟨a, l, hserved, rfl⟩ | ⟨hr, hd, -, -, rfl⟩
  · obtain ⟨es, rfl | rfl⟩ := resetting_next hs hr
    · exact inv_heldInReset es
    · exact inv_releasedFromReset es
  · exact h.completion hr he (decodeWord op)
  · obtain ⟨hr, hd, -⟩ := served_some hserved
    exact ((h.tick hr hd).withPending hr _).serve hr a l
  · exact (h.tick hr hd).withPending hr _

end Sys2Proof.Machine
end

section
/-! PROOFS. Accesses at the port and byte order in memory: what a read and any other access leave (R70, R75, R84), the
window of the bus (R70), and the bytes of a 64-bit value (R77). -/

namespace Sys2Proof.Machine

/-! ## Reads (R75, R81) -/

@[simp] theorem readOf_reg (r : Reg) : (readOf r).reg = some r := by
  simp [readOf, Access.reg]

/-- A read is answered and does nothing else, whatever it reads. -/
theorem serve_read {a : Access} (hk : a.kind = .read) (s : State) (l : Nat) : ∃ p, s.serve a l = s.withReply p := by
  rcases serve_cases s a l with ⟨-, -, e⟩ | ⟨r, -, -, e⟩ | ⟨d, st, hw, -⟩ | ⟨r, d, hw, -⟩
  · exact ⟨_, e⟩
  · exact ⟨_, e⟩
  · cases hk.symm.trans hw
  · cases hk.symm.trans hw

/-- A read of a register is answered with its value and OKAY. -/
theorem serve_readOf (s : State) (r : Reg) (l : Nat) :
    s.serve (readOf r) l = s.withReply (.read (readReg s r) .okay) := by
  have hk : (readOf r).kind = .read := rfl
  simp only [State.serve, readOf_reg, hk]

/-- A read sees the registers as they stand before the cycle passes. -/
theorem readReg_tick_withPending (s : State) (es : List Event) (r : Reg) :
    readReg (s.tick.withPending es) r = readReg s r := by
  have hstatus : (s.tick.withPending es).statusWord = s.statusWord := by
    simp only [State.statusWord, withPending_busy, tick_busy]
    rfl
  cases r
  case status => exact hstatus
  all_goals rfl

/-- Settles O17: the service of a read is its answer, and `readReg` is the answer at a mapped offset. -/
theorem readsAnswerTheRegisterAndChangeNothing : Obligations.ReadsAnswerTheRegisterAndChangeNothing := by
  refine ⟨fun s off size l h => ?_, fun s r l h => ⟨?_, ?_, ?_, ?_⟩⟩
  · obtain ⟨p, hp⟩ := serve_read (a := ⟨off, size, .read⟩) rfl (s.tick.withPending s.pending.tail) l
    exact ⟨p, by rw [step_served h, hp, answered_eq]⟩
  · rw [step_served h, serve_readOf, readReg_tick_withPending, answered_eq]
  · rintro rfl; rfl
  · rintro rfl; rfl
  · rintro rfl; rfl

/-! ## The service of an access (R84) -/

/-- Serving an access answers it, and leaves the schedule and the level of `rst` alone. -/
theorem serve_port (s : State) (a : Access) (l : Nat) :
    (s.serve a l).rst = s.rst ∧ (s.serve a l).pending = s.pending ∧ (s.serve a l).reply.isSome = true := by
  rcases serve_cases s a l with ⟨-, -, e⟩ | ⟨r, -, -, e⟩ | ⟨d, st, -, -, e⟩ | ⟨r, d, -, -, e⟩ <;> rw [e]
  case inr.inr.inr =>
    obtain ⟨hrst, hpending, -⟩ := hostWrite_port s r d l
    exact ⟨hrst, hpending, rfl⟩
  all_goals exact ⟨rfl, rfl, rfl⟩

/-- R270: no write touches a running command, since `CMD` writes are dropped while it runs. -/
theorem hostWrite_engine_of_busy {s : State} (hb : s.busy = true) (r : Reg) (d : Word) (l : Nat) :
    (s.hostWrite r d l).engine = s.engine := by
  rcases hostWrite_cases s r d l with ⟨-, e⟩ | ⟨-, e⟩ | ⟨-, e⟩ | ⟨-, -, e⟩ | ⟨-, hidle, -⟩ | ⟨-, -, -, e⟩
  case inr.inr.inr.inr.inl => cases hb.symm.trans hidle
  all_goals exact (congrArg State.engine e).trans rfl

/-- No access touches a running command. -/
theorem serve_engine_of_busy {s : State} (hb : s.busy = true) (a : Access) (l : Nat) :
    (s.serve a l).engine = s.engine := by
  rcases serve_cases s a l with ⟨-, -, e⟩ | ⟨r, -, -, e⟩ | ⟨d, st, -, -, e⟩ | ⟨r, d, -, -, e⟩ <;> rw [e]
  case inr.inr.inr => exact hostWrite_engine_of_busy hb r d l
  all_goals rfl

/-- R54: a running command whose completion is not due has at least two cycles left. -/
theorem two_le_of_due_none {op : Word} {snap : Inputs} {lat : Nat} (h : (Engine.busy op snap lat).due = none) :
    2 ≤ lat := by
  by_contra hlt
  have hl : lat ≤ 1 := by omega
  simp [Engine.due, hl] at h

/-- Settles O7: the step is the service of the access after one tick, and no access touches a running command. -/
theorem stepServesTheArrivingAccess : Obligations.StepServesTheArrivingAccess := by
  intro s a l es hr hd hp
  obtain ⟨hrst, hpending, hreply⟩ := serve_port (s.tick.withPending s.pending.tail) a l
  refine ⟨_, step_served (served_of hr hd hp), ?_, hreply, hrst.trans hr, fun op snap lat he => ?_⟩
  · rw [hpending, hp]; rfl
  · have hb : (s.tick.withPending s.pending.tail).busy = true := by
      rw [withPending_busy, tick_busy, State.busy, he]; rfl
    have htick : s.tick.engine = .busy op snap (lat - 1) := by rw [State.tick_engine, he]; rfl
    exact ⟨two_le_of_due_none (he ▸ hd), (serve_engine_of_busy hb a l).trans htick⟩

/-! ## The window of the bus (R70) -/

/-- `BASE + off` lies at offset `off` of the window. -/
theorem windowOffset_base_add (off : BitVec 12) : windowOffset (Config.base + off.toNat) = some off := by
  have hlt : Config.base + off.toNat < Config.base + Config.windowBytes := Nat.add_lt_add_left off.isLt _
  rw [windowOffset, if_pos ⟨Nat.le_add_right _ _, hlt⟩, Nat.add_sub_cancel_left, BitVec.ofNat_toNat,
    BitVec.setWidth_eq]

/-- Below `BASE` and from `BASE + 4096` on there is no window. -/
theorem windowOffset_outside {addr : Nat} (h : addr < Config.base ∨ Config.base + 4096 ≤ addr) :
    windowOffset addr = none :=
  if_neg fun ⟨hlo, hhi⟩ => h.elim (Nat.not_lt.2 hlo) (Nat.not_le.2 hhi)

/-- Settles O19: both accesses are made at the window offset of their address, if it has one. -/
theorem busAddressesMapToWindowOffsets : Obligations.BusAddressesMapToWindowOffsets := by
  refine ⟨fun off v => ?_, fun addr h => ?_⟩
  · simp only [memRead, memWrite, windowOffset_base_add, Option.map_some, and_self]
  · simp only [memRead, memWrite, windowOffset_outside h, Option.map_none, implies_true, and_self]

/-! ## Big-endian bytes (R12, R77) -/

/-- Byte `i` of a big-endian encoding is the value shifted down past the bytes after it. -/
theorem beBytes_getD {n i : Nat} (v : Nat) (h : i < n) :
    (beBytes n v).getD i 0 = BitVec.ofNat 8 (v >>> (8 * (n - 1 - i))) := by
  simp [beBytes, h]

/-- R77: byte `i` of `BE64` is bits `63 - 8i` down to `56 - 8i`. -/
theorem be64_getD (c : DWord) {i : Nat} (h : i < 8) : (be64 c).getD i 0 = c.extractLsb' (56 - 8 * i) 8 := by
  have hshift : 8 * (8 - 1 - i) = 56 - 8 * i := by omega
  rw [be64, beBytes_getD _ h, hshift, BitVec.extractLsb']

/-- R12: `BE64` spells its value. -/
theorem beNat_be64 (c : DWord) : beNat (be64 c) = c.toNat :=
  beNat_beBytes 8 c.toNat (c.isLt.trans_eq (by norm_num))

/-- Settles O46: the length, each byte, and the number of a big-endian encoding. -/
theorem hmacMessageIsTheCounterBigEndian : Obligations.HmacMessageIsTheCounterBigEndian :=
  fun c => ⟨be64_length c, fun _ h => be64_getD c h, beNat_be64 c⟩

end Sys2Proof.Machine
end

section
/-! PROOFS. The command word: its two fields as numbers, decoding against encoding, and which `Execute` the completion
of a word runs (R90 to R95). -/

namespace Sys2Proof.Machine

/-! ## The fields of a command word (R90) -/

/-- R90: MBZ is the word without its low byte. -/
theorem mbz_eq_zero_iff (w : Word) : w.extractLsb' 8 24 = 0 ↔ w.toNat / 256 = 0 := by
  have hw := w.isLt
  rw [← BitVec.toNat_inj, BitVec.extractLsb'_toNat, Nat.shiftRight_eq_div_pow]
  simp only [BitVec.ofNat_eq_ofNat, BitVec.toNat_ofNat]
  omega

/-- R90: OPCODE is the low byte of the word. -/
theorem opcode_toNat (w : Word) : (w.extractLsb' 0 8).toNat = w.toNat % 256 := by
  rw [BitVec.extractLsb'_toNat, Nat.shiftRight_zero]

/-- R94: the invalid words, by the value of their fields. -/
theorem invalidWord_iff (w : Word) :
    invalidWord w = true ↔ w.toNat / 256 ≠ 0 ∨ w.toNat % 256 = 0 ∨ 6 ≤ w.toNat % 256 := by
  have hop : w.extractLsb' 0 8 = 0 ↔ w.toNat % 256 = 0 := by
    rw [← opcode_toNat, ← BitVec.toNat_inj]; rfl
  simp only [invalidWord, Bool.or_eq_true, bne_iff_ne, beq_iff_eq, decide_eq_true_eq, ne_eq, mbz_eq_zero_iff, hop,
    opcode_toNat, or_assoc]

/-! ## The decoder against the encoder (R91, R92, R94, R95) -/

/-- R95: the dispatch, by the value of the fields. -/
theorem decodeWord_dispatch (w : Word) : decodeWord w =
    if w.toNat / 256 ≠ 0 then .invalid w
    else if w.toNat % 256 = 0x01 then .decode
    else if w.toNat % 256 = 0x02 then .counter
    else if w.toNat % 256 = 0x03 then .hotp
    else if w.toNat % 256 = 0x04 then .totp
    else if w.toNat % 256 = 0x05 then .clear
    else .invalid w := by
  simp only [decodeWord, ne_eq, mbz_eq_zero_iff, opcode_toNat]
  split
  · rfl
  · split
    case h_6 h1 h2 h3 h4 h5 => rw [if_neg h1, if_neg h2, if_neg h3, if_neg h4, if_neg h5]
    all_goals next hop => rw [hop]; rfl

/-- R94, R95: the dispatch keeps as invalid exactly the words that R94 lists. -/
theorem decodeWord_eq_invalid_iff (w : Word) : decodeWord w = .invalid w ↔ invalidWord w = true := by
  rw [decodeWord_dispatch, invalidWord_iff]
  split_ifs <;> simp only [true_iff, false_iff] <;> omega

/-- R95: no word decodes to an ill-formed command. -/
theorem wf_decodeWord (w : Word) : (decodeWord w).wf = true := by
  cases hi : decodeWord w with
  | invalid v =>
    obtain rfl : w = v := word_of_decodeWord hi
    exact (decodeWord_eq_invalid_iff w).1 hi
  | decode | counter | hotp | totp | clear => rfl

/-- R92, R94: the word of a well-formed command decodes to it. -/
theorem decodeWord_encode {i : Instr} (h : i.wf = true) : decodeWord (encode i) = i := by
  cases i with
  | invalid w => exact (decodeWord_eq_invalid_iff w).2 h
  | decode | counter | hotp | totp | clear => decide

/-- R72, R91: the bytes of a well-formed command decode to it, whatever follows them. -/
theorem decodeBytes_encodeBytes {i : Instr} (h : i.wf = true) (rest : List Byte) :
    decodeBytes (encodeBytes i ++ rest) = .ok (i, rest) := by
  rw [encodeBytes, decodeBytes_wordBytes, decodeWord_encode h]

/-- R91: fewer bytes than a word are no command. -/
theorem decodeBytes_truncated {bytes : List Byte} (h : bytes.length < 4) :
    decodeBytes bytes = .error (.truncated bytes.length) := by
  match bytes, h with
  | [], _ => rfl
  | [_], _ => rfl
  | [_, _], _ => rfl
  | [_, _, _], _ => rfl
  | _ :: _ :: _ :: _ :: _, h => simp only [List.length_cons] at h; omega

/-! ## Completion by command word (R56, R95) -/

/-- R95: the `Execute` that the dispatch of a word selects. -/
theorem execute_decodeWord (op : Word) (snap : Inputs) : execute (decodeWord op) snap =
    if op.toNat / 256 ≠ 0 then .error .invalidCommand
    else if op.toNat % 256 = 0x01 then executeDecode snap
    else if op.toNat % 256 = 0x02 then executeCounter snap
    else if op.toNat % 256 = 0x03 then executeHotp snap
    else if op.toNat % 256 = 0x04 then executeTotp snap
    else if op.toNat % 256 = 0x05 then executeClear snap
    else .error .invalidCommand := by
  rw [decodeWord_dispatch]
  split_ifs <;> rfl

/-- R231: a failed command changes no register but `STATUS`. -/
theorem completed_error (s : State) (e : ErrCode) : Completed e noReg s (s.finish (.error e)) where
  frame := {
    regs := fun r hr => readReg_endCommand_frame (by rintro rfl; cases hr) s e
    rst := rfl
    pending := rfl
    reply := rfl }
  done := rfl
  errcode := rfl
  wdrop := rfl
  engine := rfl

/-! ## The obligations -/

/-- Settles O2: the decoder reads back the word of a command, and the word names the command. -/
theorem decodingAnEncodedCommandGivesItBack : Obligations.DecodingAnEncodedCommandGivesItBack :=
  fun _ rest h => decodeBytes_encodeBytes h rest

/-- Settles O3, by the dispatch of R95 for words, and by length for shorter byte strings. -/
theorem encodingADecodedWordGivesItBack : Obligations.EncodingADecodedWordGivesItBack :=
  ⟨fun w => ⟨wf_decodeWord w, encode_decodeWord w⟩, fun _ h => decodeBytes_truncated h⟩

/-- Settles O4: a completion is `Execute` of the decoded word, and the word's fields select the arm. -/
theorem completionDispatchesOnTheCommandWord : Obligations.CompletionDispatchesOnTheCommandWord := by
  intro s op snap lat he
  rw [exec_busy _ he, execute_decodeWord]

/-- Settles O33: an invalid word decodes to itself, fails with its code, and is accepted as any other word is. -/
theorem invalidWordsAreAcceptedAndFail : Obligations.InvalidWordsAreAcceptedAndFail := by
  intro w hw
  refine ⟨(decodeWord_eq_invalid_iff w).2 ((invalidWord_iff w).2 hw), fun s op snap lat he => ?_, fun s l hb hs => ?_⟩
  · exact ⟨_, exec_busy (.invalid w) he, completed_error s .invalidCommand⟩
  · refine ⟨_, max l 1, step_written hs, Nat.le_max_right l 1, ?_⟩
    rw [written_cmd hb]; rfl

/-- Settles O1: each row is the bytes of a well-formed command. -/
theorem commandWordsDecodeAsTheTableSays : Obligations.CommandWordsDecodeAsTheTableSays :=
  have row : ∀ i : Instr, i.wf = true → decodeBytes (encodeBytes i) = .ok (i, []) := fun i h => by
    simpa using decodeBytes_encodeBytes h []
  ⟨row .decode rfl, row .counter rfl, row .hotp rfl, row .totp rfl, row .clear rfl, row (.invalid 0x00000000) rfl,
    row (.invalid 0x00000104) rfl, row (.invalid 0x80000005) rfl⟩

end Sys2Proof.Machine
end

section
/-! PROOFS. The Base32 alphabet, the decoder as arithmetic in base 32, and `DECODE` (40_base32.md). -/

namespace Sys2Proof.Machine

/-! ## The alphabet (R110, R117) -/

/-- Settles O36: range by range of the alphabet, subtraction on bytes agrees with subtraction on their codes. -/
theorem alphabetValuesAreByPosition : Obligations.AlphabetValuesAreByPosition := by
  intro c
  simp only [b32val, BitVec.le_def, BitVec.reduceToNat]
  split_ifs with hupper hlower hdigit
  · congr 1; bv_omega
  · congr 1; bv_omega
  · congr 1; bv_omega
  · rfl

/-- R117: an upper-case letter and its lower-case form have the same value. -/
theorem b32val_add_0x20 {c : Byte} (h1 : 0x41 ≤ c) (h2 : c ≤ 0x5A) : b32val (c + 0x20) = b32val c := by
  have hlow : ¬ (0x41 ≤ c + 0x20 ∧ c + 0x20 ≤ 0x5A) := by bv_omega
  have hlower : 0x61 ≤ c + 0x20 ∧ c + 0x20 ≤ 0x7A := by constructor <;> bv_omega
  have hsub : c + 0x20 - 0x61 = c - 0x41 := by bv_omega
  rw [b32val, if_neg hlow, if_pos hlower, hsub, b32val, if_pos ⟨h1, h2⟩]

/-! ## The secret characters (R112) -/

@[simp] theorem secretChars_length (inp : Inputs) : inp.secretChars.length = inp.length := by
  simp [Inputs.secretChars]

/-- R115: the decoder sees a character through its value only. -/
theorem decodeChars_congr {chars chars' : List Byte} (h : chars.map b32val = chars'.map b32val) :
    decodeChars chars = decodeChars chars' := by
  have hfold : ∀ cs : List Byte, decodeChars cs =
      ((cs.map b32val).foldl (fun (d : Decoder) v => d.symbol (v.getD 0)) decoderStart).out := fun cs => by
    rw [List.foldl_map, decodeChars]
  rw [hfold, hfold, h]

/-- Settles O37: the characters have the same values, and the decoder and V2 see nothing else. -/
theorem caseDoesNotChangeTheKey : Obligations.CaseDoesNotChangeTheKey := by
  intro inp inp' hlen hcase
  have hn : inp'.length = inp.length := congrArg BitVec.toNat hlen.symm
  have hval : ∀ i, i < inp.length → b32val (inp.secretByte i) = b32val (inp'.secretByte i) := by
    intro i hi
    rcases hcase i hi with h | ⟨h1, h2, h⟩ | ⟨h1, h2, h⟩
    · rw [h]
    · rw [h, b32val_add_0x20 h1 h2]
    · rw [h, b32val_add_0x20 h1 h2]
  constructor
  · apply decodeChars_congr
    simp only [Inputs.secretChars, List.map_map, hn]
    exact List.map_congr_left fun i hi => hval i (List.mem_range.1 hi)
  · simp only [Inputs.V2, hn]
    exact forall₂_congr fun i hi => by rw [hval i hi]

/-! ## Bytes past the length (R45, R112) -/

section
variable {inp : Inputs} {buf : Vector Word 64} (h : ∀ k, k < inp.length → bufferByte buf k = inp.secretByte k)
include h

theorem secretChars_withSecret : Inputs.secretChars { inp with secret := buf } = inp.secretChars :=
  List.map_congr_left fun k hk => h k (List.mem_range.1 hk)

theorem decodeSecret_withSecret : decodeSecret { inp with secret := buf } = decodeSecret inp :=
  congrArg decodeChars (secretChars_withSecret h)

theorem checkAlphabet_withSecret : checkAlphabet { inp with secret := buf } = checkAlphabet inp := by
  have hlegal : legalAlphabet { inp with secret := buf } = legalAlphabet inp := by
    rw [legalAlphabet, secretChars_withSecret h, legalAlphabet]
  rw [checkAlphabet, hlegal, checkAlphabet]

theorem checkOtpInputs_withSecret : checkOtpInputs { inp with secret := buf } = checkOtpInputs inp := by
  rw [checkOtpInputs, checkAlphabet_withSecret h]; rfl

theorem otpCore_withSecret (alg : Alg) (c : DWord) :
    otpCore { inp with secret := buf } alg c = otpCore inp alg c := by
  rw [otpCore, decodeSecret_withSecret h]; rfl

end

/-- Settles O38: `DECODE`, `HOTP` and `TOTP` read the secret through V2 and the RawKey only, and the other commands do
not read it. -/
theorem bytesPastTheLengthAreIgnored : Obligations.BytesPastTheLengthAreIgnored := by
  intro i inp buf h
  cases i with
  | decode =>
    show executeDecode _ = executeDecode inp
    rw [executeDecode, checkAlphabet_withSecret h, decodeSecret_withSecret h]; rfl
  | hotp =>
    show executeHotp _ = executeHotp inp
    simp only [executeHotp, checkOtpInputs_withSecret h, otpCore_withSecret h]; rfl
  | totp =>
    show executeTotp _ = executeTotp inp
    simp only [executeTotp, checkOtpInputs_withSecret h, otpCore_withSecret h]; rfl
  | counter | clear | invalid => rfl

/-! ## The length of the RawKey (R116) -/

/-- Settles O34: the length law of the decoder, at the legal lengths. -/
theorem rawKeyLengthIsFiveEighths : Obligations.RawKeyLengthIsFiveEighths := by
  refine ⟨decodeChars_length, fun inp hV1 => ?_⟩
  obtain ⟨hmin, hmax, hmod⟩ := hV1
  rw [decodeSecret, decodeChars_length, secretChars_length]
  omega

/-! ## The decoder as arithmetic (R115) -/

/-- The accumulator holds its valid bits alone, fewer than a byte. -/
structure Decoder.Wf (d : Decoder) : Prop where
  nacc : d.nacc < 8
  acc : d.acc.toNat < 2 ^ d.nacc

/-- The number all bits taken in spell: those of the emitted bytes, then those in the accumulator. -/
def Decoder.value (d : Decoder) : Nat := beNat d.out * 2 ^ d.nacc + d.acc.toNat

theorem beNat_concat (bytes : List Byte) (b : Byte) : beNat (bytes ++ [b]) = beNat bytes * 256 + b.toNat := by
  simp [beNat]

/-- The accumulator with the five bits of a symbol shifted in (R115). -/
def Decoder.shiftIn (d : Decoder) (v : BitVec 5) : BitVec 12 := d.acc <<< 5 ||| v.setWidth 12

/-- R115: a symbol that does not complete a byte. -/
theorem symbol_short {d : Decoder} (h : d.nacc + 5 < 8) (v : BitVec 5) :
    d.symbol v = ⟨d.shiftIn v, d.nacc + 5, d.out⟩ :=
  if_neg (Nat.not_le.2 h)

/-- R115: a symbol that completes a byte and leaves `k` bits. -/
theorem symbol_emit {d : Decoder} {k : Nat} (h : d.nacc + 5 = k + 8) (v : BitVec 5) :
    d.symbol v = ⟨d.shiftIn v &&& ((1 <<< k) - 1), k, d.out ++ [(d.shiftIn v >>> k).setWidth 8]⟩ := by
  have h8 : 8 ≤ d.nacc + 5 := by omega
  have hk : d.nacc + 5 - 8 = k := by omega
  simp only [Decoder.symbol, h8, if_true, hk, Decoder.shiftIn]

/-- R115: shifting a symbol in is one more base-32 digit, and no bit is lost. -/
theorem shiftIn_toNat {d : Decoder} (h : d.Wf) (v : BitVec 5) :
    (d.shiftIn v).toNat = d.acc.toNat * 32 + v.toNat ∧ (d.shiftIn v).toNat < 2 ^ (d.nacc + 5) := by
  obtain ⟨hn, hacc⟩ := h
  have hv : v.toNat < 2 ^ 5 := v.isLt
  have h7 : d.acc.toNat < 2 ^ 7 := hacc.trans_le (Nat.pow_le_pow_right (by decide) (by omega))
  have hshift : (d.acc <<< 5).toNat = d.acc.toNat <<< 5 := by
    rw [BitVec.toNat_shiftLeft, Nat.mod_eq_of_lt (by rw [Nat.shiftLeft_eq]; omega)]
  have hval : (d.shiftIn v).toNat = d.acc.toNat * 32 + v.toNat := by
    rw [Decoder.shiftIn, BitVec.toNat_or, hshift, BitVec.toNat_setWidth_of_le (by decide),
      ← Nat.shiftLeft_add_eq_or_of_lt hv, Nat.shiftLeft_eq]
  exact ⟨hval, by rw [hval, pow_add]; omega⟩

/-- R115: masking keeps the low `k` bits. -/
theorem mask_toNat (acc : BitVec 12) {k : Nat} (hk : k < 12) :
    (acc &&& ((1 <<< k) - 1)).toNat = acc.toNat % 2 ^ k := by
  have hmask : ((1 <<< k : BitVec 12) - 1).toNat = 2 ^ k - 1 := by interval_cases k <;> rfl
  rw [BitVec.toNat_and, hmask, Nat.and_two_pow_sub_one_eq_mod]

/-- R115: the bits above the low `k` are the byte that is emitted. -/
theorem emitted_toNat {acc : BitVec 12} {k : Nat} (h : acc.toNat < 2 ^ (k + 8)) :
    ((acc >>> k).setWidth 8).toNat = acc.toNat / 2 ^ k := by
  rw [BitVec.toNat_setWidth, BitVec.toNat_ushiftRight, Nat.shiftRight_eq_div_pow,
    Nat.mod_eq_of_lt (Nat.div_lt_of_lt_mul (by rwa [← pow_add]))]

/-- R115: a symbol keeps the accumulator in range, and is the next base-32 digit of the number. -/
theorem symbol_value {d : Decoder} (h : d.Wf) (v : BitVec 5) :
    (d.symbol v).Wf ∧ (d.symbol v).value = d.value * 32 + v.toNat := by
  obtain ⟨hval, hlt⟩ := shiftIn_toNat h v
  have hdigit : beNat d.out * 2 ^ (d.nacc + 5) + (d.shiftIn v).toNat = d.value * 32 + v.toNat := by
    rw [hval, Decoder.value]; ring
  by_cases h8 : d.nacc + 5 < 8
  · rw [symbol_short h8]
    exact ⟨⟨h8, hlt⟩, hdigit⟩
  · obtain ⟨k, hk⟩ : ∃ k, d.nacc + 5 = k + 8 := ⟨d.nacc - 3, by omega⟩
    have hk8 : k < 8 := by have := h.nacc; omega
    rw [hk] at hlt hdigit
    rw [symbol_emit hk]
    refine ⟨⟨hk8, ?_⟩, ?_⟩
    · rw [mask_toNat _ (by omega)]
      exact Nat.mod_lt _ (by positivity)
    · rw [← hdigit, Decoder.value, beNat_concat, emitted_toNat hlt, mask_toNat _ (by omega)]
      calc (beNat d.out * 256 + (d.shiftIn v).toNat / 2 ^ k) * 2 ^ k + (d.shiftIn v).toNat % 2 ^ k
          = beNat d.out * 2 ^ (k + 8) +
              (2 ^ k * ((d.shiftIn v).toNat / 2 ^ k) + (d.shiftIn v).toNat % 2 ^ k) := by ring
        _ = beNat d.out * 2 ^ (k + 8) + (d.shiftIn v).toNat := by rw [Nat.div_add_mod]

theorem foldl_symbol_value {α : Type} (f : α → BitVec 5) (chars : List α) {d : Decoder} (h : d.Wf) :
    (chars.foldl (fun (d : Decoder) c => d.symbol (f c)) d).Wf ∧
      (chars.foldl (fun (d : Decoder) c => d.symbol (f c)) d).value =
        chars.foldl (fun n c => n * 32 + (f c).toNat) d.value := by
  induction chars generalizing d with
  | nil => exact ⟨h, rfl⟩
  | cons c cs ih =>
    obtain ⟨hwf, hval⟩ := symbol_value h (f c)
    obtain ⟨ihwf, ihval⟩ := ih hwf
    exact ⟨ihwf, by rw [List.foldl_cons, ihval, hval, List.foldl_cons]⟩

/-- R115, R116: with no bit left over, the emitted bytes spell the base-32 number of the symbols. -/
theorem beNat_decodeChars {chars : List Byte} (h8 : chars.length % 8 = 0) :
    beNat (decodeChars chars) = chars.foldl (fun n c => n * 32 + ((b32val c).getD 0).toNat) 0 := by
  have hwf : decoderStart.Wf := ⟨by decide, by decide⟩
  obtain ⟨hbits, -⟩ := foldl_symbol_bits (fun c => (b32val c).getD 0) chars hwf.nacc
  obtain ⟨⟨hn, hacc⟩, hval⟩ := foldl_symbol_value (fun c => (b32val c).getD 0) chars hwf
  have h0 : decoderStart.bits = 0 := rfl
  have hv0 : decoderStart.value = 0 := rfl
  rw [hv0] at hval
  rw [← hval, decodeChars, Decoder.value]
  rw [h0, Decoder.bits] at hbits
  have hn0 : (chars.foldl (fun (d : Decoder) c => d.symbol ((b32val c).getD 0)) decoderStart).nacc = 0 := by omega
  rw [hn0] at hacc ⊢
  omega

/-- Settles O35: a legal length is a multiple of 8, so no bit is left over. -/
theorem rawKeyIsTheBase32Number : Obligations.RawKeyIsTheBase32Number := by
  intro inp hV1 _
  obtain ⟨-, -, hmod⟩ := hV1
  rw [decodeSecret, beNat_decodeChars (by rw [secretChars_length]; exact hmod), Inputs.secretChars, List.foldl_map]

/-! ## `DECODE` (R120) -/

/-- R56: a success changes what its writes change, and `STATUS`. -/
theorem completed_ok {s : State} {w : Writes} {changed : Reg → Bool}
    (hregs : ∀ r, changed r = false → readReg (s.applyWrites w) r = readReg s r)
    (hwdrop : (s.applyWrites w).wdrop = s.wdrop) : Completed .noError changed s (s.finish (.ok w)) := by
  obtain ⟨-, hrst, hpending, hreply, hengine, hdone⟩ := finish_frame s (.ok w)
  refine ⟨⟨fun r hr => ?_, hrst, hpending, hreply⟩, hdone, rfl, hwdrop, hengine⟩
  obtain ⟨hs, hc⟩ : r ≠ .status ∧ changed r = false := by simpa using hr
  exact (readReg_endCommand_frame hs _ _).trans (hregs r hc)

/-- R44, R120: each lane of a key register is a byte of the RawKey, and 0x00 past its end. -/
theorem lane_readReg_writeKey (s : State) (key : List Byte) (k : Fin 40) {j : Nat} (hj : j < 4) :
    lane (readReg (s.writeKey key) (.key k)) j = key.getD (4 * k.val + j) 0 :=
  (lane_getElem (packBuffer 40 key) k.val k.isLt j hj).trans (bufferByte_packBuffer 40 key _ (by omega))

/-- Settles O39: both checks pass, and the only write is that of the RawKey. -/
theorem decodeCompletesWithTheRawKey : Obligations.DecodeCompletesWithTheRawKey := by
  intro s op snap lat he hV1 hV2
  have hexec : exec .decode s = .next (s.finish (.ok { key := some (decodeSecret snap) })) := by
    rw [exec_busy .decode he, execute, executeDecode_ok hV1 hV2]
  refine ⟨_, hexec, completed_ok (fun r hr => readReg_writeKey_frame hr s _) rfl, ?_,
    fun k j hj => lane_readReg_writeKey s _ k hj⟩
  show BitVec.ofNat 32 (decodeSecret snap).length = _
  rw [decodeSecret, decodeChars_length, secretChars_length]

end Sys2Proof.Machine
end

section
/-! PROOFS. The time-step counter as a 64-bit sum, `COUNTER`, and `COUNTER` then `HOTP` against `TOTP` (41_counter.md). -/

namespace Sys2Proof.Machine

/-! ## The time step (R133, R134) -/

/-- R133: the value of the time step is that of the exact sum mod 2^64. -/
theorem timeCounter_toNat (inp : Inputs) :
    ((timeCounter inp).toNat : Int) = (inp.offset.toInt + elapsedPeriods inp) % 2 ^ 64 := by
  rw [timeCounter, BitVec.toNat_ofInt]
  exact Int.toNat_of_nonneg (Int.emod_nonneg _ (by decide))

/-- R133: reduction mod 2^64 turns the exact sum into the two's complement addition. -/
theorem timeCounter_eq_add (inp : Inputs) :
    timeCounter inp = inp.offset + BitVec.ofNat 64 (elapsedPeriods inp) := by
  rw [timeCounter, BitVec.ofInt_add, BitVec.ofInt_toInt, BitVec.ofInt_natCast]

/-- Settles O40: the sum is reduced as an integer, and reduction respects addition. -/
theorem counterIsTheSumModulo64Bits : Obligations.CounterIsTheSumModulo64Bits :=
  fun inp => ⟨timeCounter_toNat inp, timeCounter_eq_add inp⟩

/-! ## `COUNTER` (R135) -/

/-- R37, R135: the two words hold the counter that was written. -/
@[simp] theorem counter_writeCounter (s : State) (c : DWord) : (s.writeCounter c).inputs.counter = c :=
  (BitVec.extractLsb'_append_extractLsb'_eq_extractLsb' rfl).trans BitVec.extractLsb'_eq_self

/-- Settles O41: V5 is the only check, and the only write is that of `COUNTER`. -/
theorem counterCompletesWithTheTimeStep : Obligations.CounterCompletesWithTheTimeStep := by
  intro s op snap lat he h5
  have hexec : exec .counter s = .next (s.finish (.ok { counter := some (timeCounter snap) })) := by
    rw [exec_busy .counter he, execute, executeCounter_ok h5]
  exact ⟨_, hexec, completed_ok (fun r hr => readReg_writeCounter_frame hr s _) rfl,
    (counter_writeCounter s (timeCounter snap)).trans (timeCounter_eq_add snap)⟩

/-! ## `COUNTER` then `HOTP` (R137) -/

section
variable {s : State} {alg : Alg}

theorem runCommand_counter (h5 : s.inputs.V5) :
    s.runCommand 0x00000002 =
      .next (((s.startCommand 0x00000002).writeCounter (timeCounter s.inputs)).endCommand .noError) := by
  rw [runCommand_eq, show decodeWord 0x00000002 = .counter by decide, execute, executeCounter_ok h5, finish_ok,
    applyWrites_counter]

theorem runCommand_hotp (h : checkOtpInputs s.inputs = .ok alg) :
    s.runCommand 0x00000003 =
      .next (((s.startCommand 0x00000003).writeOtp (otpCore s.inputs alg s.inputs.counter)).endCommand .noError) := by
  rw [runCommand_eq, show decodeWord 0x00000003 = .hotp by decide, execute, executeHotp_ok h, finish_ok,
    applyWrites_otp]

theorem runCommand_totp (h : checkOtpInputs s.inputs = .ok alg) (h5 : s.inputs.V5) :
    s.runCommand 0x00000004 =
      .next ((((s.startCommand 0x00000004).writeCounter (timeCounter s.inputs)).writeOtp
        (otpCore s.inputs alg (timeCounter s.inputs))).endCommand .noError) := by
  rw [runCommand_eq, show decodeWord 0x00000004 = .totp by decide, execute, executeTotp_ok h h5, finish_ok,
    applyWrites_counter_otp]

end

/-- V1 to V4 do not read `COUNTER` (R162). -/
theorem checkOtpInputs_writeCounter (s : State) (c : DWord) :
    checkOtpInputs (s.writeCounter c).inputs = checkOtpInputs s.inputs := rfl

/-- R157: `OTPCore` takes the counter as its argument, and does not read `COUNTER`. -/
theorem otpCore_writeCounter (s : State) (alg : Alg) (c c' : DWord) :
    otpCore (s.writeCounter c).inputs alg c' = otpCore s.inputs alg c' := rfl

/-- R55, R56: acceptance and completion overwrite what an earlier command left, but for `COUNTER`; which command words
were accepted no longer shows. -/
theorem writeOtp_after_writeCounter (s : State) (op₁ op₂ op : Word) (c : DWord) (o : OtpResult) :
    (((((s.startCommand op₁).writeCounter c).endCommand .noError).startCommand op₂).writeOtp o).endCommand .noError =
      (((s.startCommand op).writeCounter c).writeOtp o).endCommand .noError := rfl

/-- Settles O51: `HOTP` reads from `COUNTER` the time step that `COUNTER` wrote and `TOTP` computes, and both ways write
the same registers. -/
theorem counterThenHotpEqualsTotp : Obligations.CounterThenHotpEqualsTotp := by
  intro s alg h1 h2 h3 h4 h5
  have hcheck : checkOtpInputs s.inputs = .ok alg := checkOtpInputs_ok h1 h2 h3 h4
  refine ⟨_, _, runCommand_counter h5,
    runCommand_hotp ((checkOtpInputs_writeCounter (s.startCommand _) _).trans hcheck), ?_⟩
  rw [State.endCommand_inputs, counter_writeCounter, otpCore_writeCounter, State.startCommand_inputs,
    writeOtp_after_writeCounter s _ _ 0x00000004]
  exact runCommand_totp hcheck h5

end Sys2Proof.Machine
end

section
/-! PROOFS. Dynamic truncation and decimal formatting (R153 to R156), and `HOTP` and `TOTP`: the order of their checks,
what they write, and that two `TOTP` commands in one period agree (42_otp.md). -/

namespace Sys2Proof.Machine

/-! ## Dynamic truncation (R153, R154, R155) -/

/-- R153: masking the last byte keeps its low nibble. -/
theorem truncationOffset_eq (d : List Byte) : truncationOffset d = (d.getD (d.length - 1) 0).toNat % 16 := by
  rw [truncationOffset, BitVec.toNat_and]
  exact Nat.and_two_pow_sub_one_eq_mod _ 4

/-- A window that starts inside a string has the byte there first. -/
theorem take_succ_drop {d : List Byte} {i : Nat} (h : i < d.length) (n : Nat) :
    (d.drop i).take (n + 1) = d.getD i 0 :: (d.drop (i + 1)).take n := by
  rw [List.drop_eq_getElem_cons h, List.take_succ_cons, List.getD_eq_getElem d 0 h]

/-- R154: the window that starts at byte `i`. -/
theorem take_four_drop {d : List Byte} {i : Nat} (h : i + 4 ≤ d.length) :
    (d.drop i).take 4 = [d.getD i 0, d.getD (i + 1) 0, d.getD (i + 2) 0, d.getD (i + 3) 0] := by
  rw [take_succ_drop (by omega), take_succ_drop (by omega), take_succ_drop (by omega), take_succ_drop (by omega),
    List.take_zero]

/-- A byte shifted above a word that has no bits there adds to it. -/
theorem shifted_byte_or_toNat (b : Byte) {n : Nat} (hn : n ≤ 24) {w : Word} (hw : w.toNat < 2 ^ n) :
    (b.setWidth 32 <<< n ||| w).toNat = b.toNat * 2 ^ n + w.toNat := by
  have hlt : b.toNat * 2 ^ n < 2 ^ 32 :=
    calc b.toNat * 2 ^ n < 2 ^ 8 * 2 ^ n := Nat.mul_lt_mul_of_pos_right b.isLt (by positivity)
      _ ≤ 2 ^ 8 * 2 ^ 24 := Nat.mul_le_mul_left _ (Nat.pow_le_pow_right (by decide) hn)
  rw [BitVec.toNat_or, BitVec.toNat_shiftLeft, BitVec.toNat_setWidth_of_le (by decide), Nat.shiftLeft_eq,
    Nat.mod_eq_of_lt hlt, ← Nat.shiftLeft_eq, ← Nat.shiftLeft_add_eq_or_of_lt hw]

/-- R154: four bytes shifted to their places spell their big-endian number. -/
theorem or_shifted_bytes_toNat (b0 b1 b2 b3 : Byte) :
    (b0.setWidth 32 <<< 24 ||| b1.setWidth 32 <<< 16 ||| b2.setWidth 32 <<< 8 ||| b3.setWidth 32 : Word).toNat =
      beNat [b0, b1, b2, b3] := by
  have h3 : (b3.setWidth 32).toNat = b3.toNat := BitVec.toNat_setWidth_of_le (by decide)
  have h2 := shifted_byte_or_toNat b2 (n := 8) (by decide) (w := b3.setWidth 32) (by omega)
  have h1 := shifted_byte_or_toNat b1 (n := 16) (by decide) (w := b2.setWidth 32 <<< 8 ||| b3.setWidth 32) (by omega)
  rw [BitVec.or_assoc, BitVec.or_assoc, shifted_byte_or_toNat b0 (by decide) (by omega), h1, h2, h3]
  simp only [beNat, List.foldl_cons, List.foldl_nil]
  omega

/-- Masking the top bit of the first byte of four takes their number mod 2^31. -/
theorem beNat_mask_first (b0 b1 b2 b3 : Byte) : beNat [b0 &&& 0x7F, b1, b2, b3] = beNat [b0, b1, b2, b3] % 2 ^ 31 := by
  have hmask : (b0 &&& 0x7F).toNat = b0.toNat % 2 ^ 7 := by
    rw [BitVec.toNat_and]; exact Nat.and_two_pow_sub_one_eq_mod _ 7
  simp only [beNat, List.foldl_cons, List.foldl_nil, hmask]
  omega

/-- R154: the truncated value is the big-endian number of the window less its top bit. -/
theorem truncatedValue_toNat {d : List Byte} (h : truncationOffset d + 4 ≤ d.length) :
    (truncatedValue d).toNat = beNat ((d.drop (truncationOffset d)).take 4) % 2 ^ 31 := by
  rw [truncatedValue, or_shifted_bytes_toNat, take_four_drop h, beNat_mask_first]

/-- Settles O47: the offset is at most 15 and the shortest digest has 20 bytes, so the window lies inside. -/
theorem truncationReadsAWindowOfTheDigest : Obligations.TruncationReadsAWindowOfTheDigest := by
  intro alg key m digits hdigits
  have hoff := truncationOffset_lt (hmac alg key m)
  have hlen : 20 ≤ (hmac alg key m).length := by
    rw [hmac_length]; rcases digestLen_cases alg with h | h | h <;> omega
  have hle8 : digits ≤ 8 := by omega
  refine ⟨?_, by omega, by omega, truncatedValue_toNat (by omega), rfl, Nat.mod_lt _ (by positivity),
    (otpCode_lt _ hle8).trans (by decide)⟩
  rw [truncationOffset_eq, hmac_length]

/-! ## Decimal formatting (R156) -/

/-- R156: a character inside the digits is the ASCII code of its decimal digit. -/
theorem otpChar_toNat {code digits i : Nat} (h : i < digits) :
    (otpChar code digits i).toNat = 0x30 + code / 10 ^ (digits - 1 - i) % 10 := by
  rw [otpChar, if_pos h, BitVec.toNat_ofNat]
  omega

theorem otpChar_past {code digits i : Nat} (h : digits ≤ i) : otpChar code digits i = 0x00 := if_neg (Nat.not_lt.2 h)

/-- The `n` low decimal digits of a number, most significant first, spell it mod 10^n. -/
theorem foldl_decimal_digits (n code : Nat) :
    (List.range n).foldl (fun acc i => acc * 10 + code / 10 ^ (n - 1 - i) % 10) 0 = code % 10 ^ n := by
  induction n generalizing code with
  | zero => simp [Nat.mod_one]
  | succ n ih =>
    have hinit : (List.range n).foldl (fun acc i => acc * 10 + code / 10 ^ (n + 1 - 1 - i) % 10) 0 =
        code / 10 % 10 ^ n := by
      rw [← ih (code / 10)]
      refine List.foldl_ext _ _ _ fun acc i hi => ?_
      have hi : i < n := List.mem_range.1 hi
      rw [Nat.div_div_eq_div_mul, ← pow_succ', show n - 1 - i + 1 = n + 1 - 1 - i by omega]
    rw [List.range_succ, List.foldl_append, hinit, List.foldl_cons, List.foldl_nil, pow_succ', Nat.mod_mul,
      Nat.add_sub_cancel, Nat.sub_self, pow_zero, Nat.div_one]
    omega

/-- Settles O48: the characters are the decimal digits, and a code below 10^digits has no others. -/
theorem otpCharactersSpellTheCode : Obligations.OtpCharactersSpellTheCode := by
  intro code digits _ hcode
  refine ⟨fun i hi => ?_, fun i hi => otpChar_past hi, ?_⟩
  · rw [otpChar_toNat hi]; omega
  · calc (List.range digits).foldl (fun n i => n * 10 + ((otpChar code digits i).toNat - 0x30)) 0
        = (List.range digits).foldl (fun n i => n * 10 + code / 10 ^ (digits - 1 - i) % 10) 0 := by
          refine List.foldl_ext _ _ _ fun n i hi => ?_
          rw [otpChar_toNat (List.mem_range.1 hi), Nat.add_sub_cancel_left]
      _ = code := by rw [foldl_decimal_digits, Nat.mod_eq_of_lt hcode]

/-! ## The order of the checks (R162) -/

/-- R162: an error of V1 to V4 is the outcome of `HOTP` and of `TOTP`. -/
theorem execute_otp_error {i : Instr} (hi : i = .hotp ∨ i = .totp) {inp : Inputs} {e : ErrCode}
    (h : checkOtpInputs inp = .error e) : execute i inp = .error e := by
  rcases hi with rfl | rfl
  · exact executeHotp_error h
  · exact executeTotp_error h

/-- R231: a command whose `Execute` fails completes with that error. -/
theorem completed_of_execute_error {i : Instr} {inp : Inputs} {e : ErrCode} (s : State)
    (h : execute i inp = .error e) : Completed e noReg s (s.finish (execute i inp)) :=
  h ▸ completed_error s e

/-- Settles O30: the checks passed so far leave one case of V1 to V4, and V5 is asked only after them. -/
theorem otpErrorsFollowTheValidationOrder : Obligations.OtpErrorsFollowTheValidationOrder := by
  intro s op snap lat he i hi
  have hcases := checkOtpInputs_cases snap
  have fails : ∀ e, checkOtpInputs snap = .error e → Completed e noReg s (s.finish (execute i snap)) :=
    fun e h => completed_of_execute_error s (execute_otp_error hi h)
  refine ⟨_, exec_busy i he, fun h1 => fails _ ?_, fun h1 h2 => fails _ ?_, fun h1 h2 h3 => fails _ ?_,
    fun h1 h2 h3 h4 => fails _ ?_, fun ht h1 h2 h3 h4 h5 => ?_⟩
  · simpa [h1] using hcases
  · simpa [h1, h2] using hcases
  · simpa [h1, h2, h3] using hcases
  · have hnone := (V4_fails_iff snap).2 h4
    simpa [h1, h2, h3, hnone] using hcases
  · obtain ⟨alg, halg⟩ : ∃ alg, snap.V4 alg := by simpa using mt (V4_fails_iff snap).1 h4
    subst ht
    exact completed_of_execute_error s (executeTotp_V5 (checkOtpInputs_ok h1 h2 h3 halg) h5)

/-! ## What `HOTP` and `TOTP` write (R157) -/

/-- R44: lane `j` of a packed word is byte `4k + j` of the string. -/
theorem lane_packWord (bytes : List Byte) (k : Nat) {j : Nat} (hj : j < 4) :
    lane (packWord bytes k) j = bytes.getD (4 * k + j) 0 := by
  rw [packWord]
  interval_cases j
  · exact lane_ofLanes_0 ..
  · exact lane_ofLanes_1 ..
  · exact lane_ofLanes_2 ..
  · exact lane_ofLanes_3 ..

/-- R42, R44: the host reads the characters of an OTP result byte by byte. -/
theorem otpCharByte_writeOtp (s : State) (o : OtpResult) {i : Nat} (hi : i < 8) :
    otpCharByte (s.writeOtp o) i = o.chars.getD i 0 := by
  by_cases h4 : i < 4
  · rw [otpCharByte, if_pos h4]
    exact (lane_packWord o.chars 0 h4).trans (by rw [Nat.mul_zero, Nat.zero_add])
  · rw [otpCharByte, if_neg h4]
    exact (lane_packWord o.chars 1 (by omega)).trans (by rw [show 4 * 1 + (i - 4) = i by omega])

theorem otpCore_chars_getD (inp : Inputs) (alg : Alg) (c : DWord) {i : Nat} (hi : i < 8) :
    (otpCore inp alg c).chars.getD i 0 =
      otpChar (otpCode (hmac alg (decodeSecret inp) (be64 c)) inp.digits) inp.digits i := by
  simp [otpCore, hi]

/-- R157: what the write of `OTPCore` shows. -/
theorem otpShown_writeOtp (s : State) (inp : Inputs) (alg : Alg) (c : DWord) :
    OtpShown inp alg c (s.writeOtp (otpCore inp alg c)) where
  digest := fun k j hj => by
    show lane (packBuffer 16 (otpCore inp alg c).digest)[k.val] j = _
    rw [lane_getElem _ _ k.isLt j hj, bufferByte_packBuffer _ _ _ (by omega), otpCore_digest]
  digestLen := congrArg (BitVec.ofNat 32) (hmac_length ..)
  truncOff := rfl
  trunc := rfl
  code := rfl
  chars := fun i hi => (otpCharByte_writeOtp s _ hi).trans (otpCore_chars_getD inp alg c hi)

/-- R56: the end of a completion leaves what the digest and OTP registers show. -/
theorem OtpShown.endCommand {inp : Inputs} {alg : Alg} {c : DWord} {s : State} (h : OtpShown inp alg c s)
    (e : ErrCode) : OtpShown inp alg c (s.endCommand e) where
  digest := h.digest
  digestLen := h.digestLen
  truncOff := h.truncOff
  trunc := h.trunc
  code := h.code
  chars := h.chars

/-- Settles O49: V1 to V4 pass, and the only write is that of `OTPCore` for `COUNTER`. -/
theorem hotpCompletesWithTheCode : Obligations.HotpCompletesWithTheCode := by
  intro s op snap lat alg he h1 h2 h3 h4
  have hexec : exec .hotp s = .next (s.finish (.ok { otp := some (otpCore snap alg snap.counter) })) := by
    rw [exec_busy .hotp he, execute, executeHotp_ok (checkOtpInputs_ok h1 h2 h3 h4)]
  exact ⟨_, hexec, completed_ok (fun r hr => readReg_writeOtp_frame hr s _) rfl,
    (otpShown_writeOtp s snap alg snap.counter).endCommand .noError⟩

/-- R92, R165: `TOTP` writes `COUNTER` and the digest and OTP registers only. -/
theorem readReg_writeCounter_writeOtp_frame {r : Reg} (h : (r.isCounter || r.isOtpResult) = false) (s : State)
    (c : DWord) (o : OtpResult) : readReg ((s.writeCounter c).writeOtp o) r = readReg s r := by
  obtain ⟨hc, ho⟩ := Bool.or_eq_false_iff.1 h
  rw [readReg_writeOtp_frame ho, readReg_writeCounter_frame hc]

/-- Settles O50: V1 to V5 pass, and the writes are those of `COUNTER` and of `OTPCore` for the time step. -/
theorem totpCompletesWithTheCode : Obligations.TotpCompletesWithTheCode := by
  intro s op snap lat alg he h1 h2 h3 h4 h5
  have hexec : exec .totp s = .next (s.finish
      (.ok { counter := some (timeCounter snap), otp := some (otpCore snap alg (timeCounter snap)) })) := by
    rw [exec_busy .totp he, execute, executeTotp_ok (checkOtpInputs_ok h1 h2 h3 h4) h5]
  have hcounter := counter_writeCounter s (timeCounter snap)
  refine ⟨_, hexec, completed_ok (fun r hr => readReg_writeCounter_writeOtp_frame hr s _ _) rfl,
    hcounter.trans (timeCounter_eq_add snap), ?_⟩
  show OtpShown snap alg (s.writeCounter (timeCounter snap)).inputs.counter _
  rw [hcounter]
  exact (otpShown_writeOtp (s.writeCounter (timeCounter snap)) snap alg (timeCounter snap)).endCommand .noError

/-! ## Two `TOTP` commands in one period (R166) -/

section
variable {inp : Inputs} {lo hi : Word}

/-- R131, R133: the time step reads `TIME` through the quotient only. -/
theorem timeCounter_withTime
    (h : (hi ++ lo).toNat / inp.period.toNat = inp.time.toNat / inp.period.toNat) :
    timeCounter { inp with timeLo := lo, timeHi := hi } = timeCounter inp :=
  congrArg (fun q : Nat => BitVec.ofInt 64 (inp.offset.toInt + (q : Int))) h

theorem checkOtpInputs_withTime : checkOtpInputs { inp with timeLo := lo, timeHi := hi } = checkOtpInputs inp := rfl

theorem checkPeriod_withTime : checkPeriod { inp with timeLo := lo, timeHi := hi } = checkPeriod inp := rfl

theorem otpCore_withTime (alg : Alg) (c : DWord) :
    otpCore { inp with timeLo := lo, timeHi := hi } alg c = otpCore inp alg c := rfl

/-- R162, R165: the checks do not read `TIME`, so `TOTP` reads it through the quotient only as well. -/
theorem executeTotp_withTime
    (h : (hi ++ lo).toNat / inp.period.toNat = inp.time.toNat / inp.period.toNat) :
    executeTotp { inp with timeLo := lo, timeHi := hi } = executeTotp inp := by
  simp only [executeTotp, timeCounter_withTime h, checkOtpInputs_withTime, checkPeriod_withTime, otpCore_withTime]

end

/-- R56, R157: from states that agree in the result group and in `COUNTER`, one outcome of `TOTP` leaves the same
results, the same `COUNTER` and the same error code. -/
theorem finish_totp_congr {s s' : State} (hres : s.results = s'.results)
    (hcounter : s.inputs.counter = s'.inputs.counter) (inp : Inputs) :
    (s.finish (executeTotp inp)).results = (s'.finish (executeTotp inp)).results ∧
      (s.finish (executeTotp inp)).inputs.counter = (s'.finish (executeTotp inp)).inputs.counter ∧
      (s.finish (executeTotp inp)).errcode = (s'.finish (executeTotp inp)).errcode := by
  cases h : executeTotp inp with
  | error e => exact ⟨hres, hcounter, rfl⟩
  | ok w =>
    obtain ⟨alg, -, rfl⟩ := executeTotp_success h
    refine ⟨?_, rfl, rfl⟩
    simp only [finish_ok, applyWrites_counter_otp, State.endCommand_results, State.writeOtp_results,
      State.writeCounter_results, hres]

/-- Settles O52: both runs have one outcome of `Execute`, and acceptance has cleared the results before it. -/
theorem sameTimeStepGivesTheSameCode : Obligations.SameTimeStepGivesTheSameCode := by
  intro s lo hi hq
  refine ⟨_, _, runCommand_eq s _, runCommand_eq _ _, ?_⟩
  rw [show decodeWord 0x00000004 = .totp by decide, execute, executeTotp_withTime hq]
  exact finish_totp_congr (by rfl) (by rfl) s.inputs

end Sys2Proof.Machine
end

section
/-! PROOFS. The hash functions: their message schedules, the padding, the key of HMAC, and the constants as roots of
primes (43_hash.md). -/

namespace Sys2Proof.Machine

/-! ## Message schedules (R186, R190, R194) -/

section
variable {w : Nat} (next : List (BitVec w) → BitVec w)

@[simp] theorem extendSchedule_length (n : Nat) (ws : List (BitVec w)) :
    (extendSchedule next n ws).length = ws.length + n := by
  induction n generalizing ws with
  | zero => rfl
  | succ n ih => rw [extendSchedule, ih, List.length_cons]; omega

/-- The last word made is the newest. -/
theorem extendSchedule_succ (n : Nat) (ws : List (BitVec w)) :
    extendSchedule next (n + 1) ws = next (extendSchedule next n ws) :: extendSchedule next n ws := by
  induction n generalizing ws with
  | zero => rfl
  | succ n ih => rw [extendSchedule, ih, ← extendSchedule]

/-- Behind the newest `k` words stand the words that were there when they were made. -/
theorem drop_extendSchedule (k n : Nat) (ws : List (BitVec w)) :
    (extendSchedule next (n + k) ws).drop k = extendSchedule next n ws := by
  induction k with
  | zero => rfl
  | succ k ih => rw [← Nat.add_assoc, extendSchedule_succ, List.drop_succ_cons, ih]

/-- A schedule, oldest word first, starts with the words it was made from. -/
theorem take_schedule (n : Nat) (ws : List (BitVec w)) :
    (extendSchedule next n ws.reverse).reverse.take ws.length = ws := by
  have hdrop := drop_extendSchedule next n 0 ws.reverse
  rw [Nat.zero_add, extendSchedule] at hdrop
  rw [List.take_reverse, extendSchedule_length, List.length_reverse, Nat.add_sub_cancel_left, hdrop,
    List.reverse_reverse]

/-- Each later word of a schedule is made from the words before it, newest first. -/
theorem schedule_getD {n t : Nat} {ws : List (BitVec w)} (hlo : ws.length ≤ t) (hhi : t < ws.length + n) :
    (extendSchedule next n ws.reverse).reverse.getD t 0 =
      next ((extendSchedule next n ws.reverse).reverse.take t).reverse := by
  obtain ⟨k, rfl⟩ := Nat.exists_eq_add_of_le hlo
  obtain ⟨m, rfl⟩ : ∃ m, n = k + 1 + m := Nat.exists_eq_add_of_le (by omega)
  have hnew : (extendSchedule next (k + 1 + m) ws.reverse)[m]? = some (next (extendSchedule next k ws.reverse)) := by
    rw [← List.head?_drop, drop_extendSchedule, extendSchedule_succ, List.head?_cons]
  have hold : (extendSchedule next (k + 1 + m) ws.reverse).drop (m + 1) = extendSchedule next k ws.reverse := by
    rw [Nat.add_assoc, Nat.add_comm 1, drop_extendSchedule]
  have hlen : (extendSchedule next (k + 1 + m) ws.reverse).length = ws.length + (k + 1 + m) := by simp
  rw [List.take_reverse, List.reverse_reverse, List.getD_reverse _ (by omega), hlen,
    show ws.length + (k + 1 + m) - 1 - (ws.length + k) = m by omega,
    show ws.length + (k + 1 + m) - (ws.length + k) = m + 1 by omega, hold, List.getD_eq_getElem?_getD, hnew,
    Option.getD_some]

end

/-- Entry `j` of the first `t` words, newest first, is W_(t-1-j). -/
theorem getD_reverse_take {α : Type} {l : List α} {t j : Nat} (d : α) (ht : t ≤ l.length) (hj : j < t) :
    (l.take t).reverse.getD j d = l.getD (t - 1 - j) d := by
  have hlen : (l.take t).length = t := List.length_take_of_le ht
  rw [List.getD_reverse _ (hlen.symm ▸ hj), hlen, List.getD_eq_getElem?_getD, List.getElem?_take_of_lt (by omega),
    List.getD_eq_getElem?_getD]

theorem sha1Schedule_length (ws : List (BitVec 32)) : (sha1Schedule ws).length = ws.length + 64 := by
  simp [sha1Schedule]

/-- R186: the recurrence of SHA-1. -/
theorem sha1Schedule_getD {ws : List (BitVec 32)} (hws : ws.length = 16) {t : Nat} (hlo : 16 ≤ t) (hhi : t < 80) :
    (sha1Schedule ws).getD t 0 =
      ((sha1Schedule ws).getD (t - 3) 0 ^^^ (sha1Schedule ws).getD (t - 8) 0 ^^^
        (sha1Schedule ws).getD (t - 14) 0 ^^^ (sha1Schedule ws).getD (t - 16) 0).rotateLeft 1 := by
  have hword : (sha1Schedule ws).getD t 0 = sha1Word ((sha1Schedule ws).take t).reverse :=
    schedule_getD sha1Word (by omega) (by omega)
  have hback : ∀ j, j < 16 → ((sha1Schedule ws).take t).reverse.getD j 0 = (sha1Schedule ws).getD (t - 1 - j) 0 :=
    fun j hj => getD_reverse_take 0 (by rw [sha1Schedule_length]; omega) (by omega)
  rw [hword, sha1Word, hback 2 (by decide), hback 7 (by decide), hback 13 (by decide), hback 15 (by decide)]
  simp only [Nat.sub_sub, Nat.reduceAdd]

/-- R190, R194: the length, the start and the recurrence of a SHA-2 schedule with `n` rounds. -/
theorem sha2Schedule_recurrence {w n : Nat} (p : Sha2 w) (hp : p.constants.length = n) (hn : 16 ≤ n)
    {ws : List (BitVec w)} (hws : ws.length = 16) :
    (p.schedule ws).length = n ∧ (p.schedule ws).take 16 = ws ∧
    ∀ t, 16 ≤ t → t < n → (p.schedule ws).getD t 0 =
      p.smallSigma1 ((p.schedule ws).getD (t - 2) 0) + (p.schedule ws).getD (t - 7) 0 +
        p.smallSigma0 ((p.schedule ws).getD (t - 15) 0) + (p.schedule ws).getD (t - 16) 0 := by
  have hlen : (p.schedule ws).length = n := by simp [Sha2.schedule, hp, hws, hn]
  refine ⟨hlen, hws ▸ take_schedule p.word _ ws, fun t hlo hhi => ?_⟩
  have hword : (p.schedule ws).getD t 0 = p.word ((p.schedule ws).take t).reverse :=
    schedule_getD p.word (by omega) (by omega)
  have hback : ∀ j, j < 16 → ((p.schedule ws).take t).reverse.getD j 0 = (p.schedule ws).getD (t - 1 - j) 0 :=
    fun j hj => getD_reverse_take 0 (by omega) (by omega)
  rw [hword, Sha2.word, hback 1 (by decide), hback 6 (by decide), hback 14 (by decide), hback 15 (by decide)]
  simp only [Nat.sub_sub, Nat.reduceAdd]

/-- Settles O43: SHA-1 by its own recurrence, SHA-256 and SHA-512 by the one they share, at 64 and at 80 rounds. -/
theorem messageSchedulesFollowTheirRecurrences : Obligations.MessageSchedulesFollowTheirRecurrences :=
  ⟨fun ws hws => ⟨by rw [sha1Schedule_length, hws], hws ▸ take_schedule sha1Word 64 ws,
      fun _ hlo hhi => sha1Schedule_getD hws hlo hhi⟩,
    fun _ hws => sha2Schedule_recurrence sha256Params (by decide) (by decide) hws,
    fun _ hws => sha2Schedule_recurrence sha512Params (by decide) (by decide) hws⟩

/-! ## Padding (R182) -/

/-- The number of zero bytes of `Pad` fills whole blocks. -/
theorem add_fill_mod {block : Nat} (hb : 0 < block) (n : Nat) : (n + (block - n % block) % block) % block = 0 := by
  have hlt := Nat.mod_lt n hb
  rw [Nat.add_mod_mod, ← Nat.mod_add_mod, Nat.add_sub_cancel' hlt.le, Nat.mod_self]

/-- Fewer bytes than `Pad` adds do not reach the end of a block. -/
theorem add_mod_ne_zero_of_lt_fill {block n z : Nat} (hb : 0 < block) (hz : z < (block - n % block) % block) :
    (n + z) % block ≠ 0 := by
  have hlt := Nat.mod_lt n hb
  have hpos : n % block ≠ 0 := fun h => by simp [h] at hz
  rw [Nat.mod_eq_of_lt (by omega)] at hz
  rw [← Nat.mod_add_mod, Nat.mod_eq_of_lt (by omega)]
  omega

theorem hashPad_length (block lenField : Nat) (m : List Byte) :
    (hashPad block lenField m).length =
      m.length + 1 + lenField + (block - (m.length + 1 + lenField) % block) % block := by
  simp only [hashPad, List.length_append, List.length_singleton, List.length_replicate, beBytes_length]
  omega

/-- Settles O44: `z` is what the message, the 0x80 and the length field lack of whole blocks. -/
theorem paddingIsTheLeastThatFillsBlocks : Obligations.PaddingIsTheLeastThatFillsBlocks := by
  intro block lenField m hb
  refine ⟨_, rfl, ?_, fun z hz => ?_, beNat_beBytes lenField _⟩
  · rw [hashPad_length]; exact add_fill_mod hb _
  · rw [Nat.add_right_comm]; exact add_mod_ne_zero_of_lt_fill hb hz

/-! ## The key of HMAC (R200, R201) -/

theorem hmacKey_of_short {alg : Alg} {key : List Byte} (h : key.length ≤ alg.blockBytes) :
    hmacKey alg key = key ++ List.replicate (alg.blockBytes - key.length) 0x00 := by
  simp only [hmacKey, if_pos h]

theorem hmacKey_of_long {alg : Alg} {key : List Byte} (h : alg.blockBytes < key.length) :
    hmacKey alg key = alg.hash key ++ List.replicate (alg.blockBytes - alg.digestLen) 0x00 := by
  simp only [hmacKey, if_neg (Nat.not_le.2 h), hash_length]

/-- R96: a digest fits in a block. -/
theorem digestLen_le_blockBytes (alg : Alg) : alg.digestLen ≤ alg.blockBytes := by
  cases alg <;> decide

@[simp] theorem hmacKey_length (alg : Alg) (key : List Byte) : (hmacKey alg key).length = alg.blockBytes := by
  rcases Nat.lt_or_ge alg.blockBytes key.length with h | h
  · rw [hmacKey_of_long h, List.length_append, List.length_replicate, hash_length]
    exact Nat.add_sub_cancel' (digestLen_le_blockBytes alg)
  · rw [hmacKey_of_short h, List.length_append, List.length_replicate]
    exact Nat.add_sub_cancel' h

/-- R116: five eighths of a legal secret length, against a block of 64 and of 128 bytes. -/
theorem decodeSecret_length_le_blockBytes_iff (alg : Alg) {inp : Inputs} (h : inp.V1) :
    (decodeSecret inp).length ≤ alg.blockBytes ↔ inp.length ≤ (if alg = .sha512 then 200 else 96) := by
  obtain ⟨-, hlen, -⟩ := rawKeyLengthIsFiveEighths.2 inp h
  obtain ⟨-, -, hmod⟩ := h
  cases alg with
  | sha1 | sha256 =>
    show _ ≤ 64 ↔ inp.length ≤ 96
    omega
  | sha512 =>
    show _ ≤ 128 ↔ inp.length ≤ 200
    omega

/-- Settles O45: both branches of `K0`, and the length law of the RawKey. -/
theorem hmacKeyPreparation : Obligations.HmacKeyPreparation :=
  ⟨fun alg key => ⟨hmacKey_length alg key, hmacKey_of_short, hmacKey_of_long⟩,
    fun alg _ h => decodeSecret_length_le_blockBytes_iff alg h⟩

/-! ## The constants (R187, R188, R191, R192, R205) -/

/-- The integer with whole part `floor(p^(1/k))` and the `w` bits of `c` behind the binary point. -/
def rootWithFraction {w : Nat} (k p : Nat) (c : BitVec w) : Nat := Nat.nthRoot k p * 2 ^ w + c.toNat

/-- `c` is the first `w` bits of the fractional part of the `k`-th root of `p`, stated on integers (R205). -/
def IsRootFraction {w : Nat} (k p : Nat) (c : BitVec w) : Prop :=
  rootWithFraction k p c ^ k ≤ p * 2 ^ (k * w) ∧ p * 2 ^ (k * w) < (rootWithFraction k p c + 1) ^ k

theorem ofNat_rootWithFraction {w : Nat} (k p : Nat) (c : BitVec w) : BitVec.ofNat w (rootWithFraction k p c) = c := by
  apply BitVec.eq_of_toNat_eq
  rw [BitVec.toNat_ofNat, rootWithFraction, Nat.mul_add_mod_self_right, Nat.mod_eq_of_lt c.isLt]

/-- R188, R192: trial division up to 409 is done here once; what follows reads the list. -/
theorem primesTo409_eq : primesTo409 =
    [2, 3, 5, 7, 11, 13, 17, 19, 23, 29, 31, 37, 41, 43, 47, 53, 59, 61, 67, 71,
      73, 79, 83, 89, 97, 101, 103, 107, 109, 113, 127, 131, 137, 139, 149, 151, 157, 163, 167, 173,
      179, 181, 191, 193, 197, 199, 211, 223, 227, 229, 233, 239, 241, 251, 257, 263, 269, 271, 277, 281,
      283, 293, 307, 311, 313, 317, 331, 337, 347, 349, 353, 359, 367, 373, 379, 383, 389, 397, 401, 409] := by
  decide +kernel

theorem primesTo409_length : primesTo409.length = 80 := by rw [primesTo409_eq]; rfl

theorem sha256Constants_isRootFraction :
    ∀ pc ∈ primesTo409.zip sha256Constants, IsRootFraction 3 pc.1 pc.2 := by
  rw [primesTo409_eq]; unfold IsRootFraction; decide +kernel

theorem sha512Constants_isRootFraction :
    ∀ pc ∈ primesTo409.zip sha512Constants, IsRootFraction 3 pc.1 pc.2 := by
  rw [primesTo409_eq]; unfold IsRootFraction; decide +kernel

theorem sha256Initial_isRootFraction :
    ∀ pc ∈ primesTo409.zip sha256Initial, IsRootFraction 2 pc.1 pc.2 := by
  rw [primesTo409_eq]; unfold IsRootFraction; decide +kernel

theorem sha512Initial_isRootFraction :
    ∀ pc ∈ primesTo409.zip sha512Initial, IsRootFraction 2 pc.1 pc.2 := by
  rw [primesTo409_eq]; unfold IsRootFraction; decide +kernel

/-- R205: an entry of a list of root fractions is the low word of an integer root. -/
theorem exists_root_of_isRootFraction {k w n : Nat} {cs : List (BitVec w)} (hlen : cs.length = n) (hn : n ≤ 80)
    (hcs : ∀ pc ∈ primesTo409.zip cs, IsRootFraction k pc.1 pc.2) (t : Nat) (ht : t < n) :
    ∃ r, r ^ k ≤ primesTo409.getD t 0 * 2 ^ (k * w) ∧ primesTo409.getD t 0 * 2 ^ (k * w) < (r + 1) ^ k ∧
      cs[t]? = some (BitVec.ofNat w r) := by
  have hp : t < primesTo409.length := by rw [primesTo409_length]; omega
  have hc : t < cs.length := by omega
  obtain ⟨hle, hlt⟩ := hcs (primesTo409[t], cs[t]) (List.mem_iff_getElem.2 ⟨t, by simp [hp, hc], List.getElem_zip⟩)
  rw [List.getD_eq_getElem _ _ hp, List.getElem?_eq_getElem hc]
  exact ⟨_, hle, hlt, by rw [ofNat_rootWithFraction]⟩

/-- Settles O42: every constant is checked against its prime, and its word is the low word of the root. -/
theorem hashConstantsAreRootsOfPrimes : Obligations.HashConstantsAreRootsOfPrimes :=
  ⟨primesTo409_length, exists_root_of_isRootFraction rfl (by decide) sha256Constants_isRootFraction,
    exists_root_of_isRootFraction rfl (by decide) sha512Constants_isRootFraction,
    exists_root_of_isRootFraction rfl (by decide) sha256Initial_isRootFraction,
    exists_root_of_isRootFraction rfl (by decide) sha512Initial_isRootFraction⟩

end Sys2Proof.Machine
end

section
/-! PROOFS. `CLEAR`: its completion wipes the input group and WDROP, and from its acceptance on leaves the reset values
beside `CTRL` (R55, R59, R220). -/

namespace Sys2Proof.Machine

/-- R220: `CLEAR` makes no check, so while a command runs it completes with the wipe. -/
theorem exec_clear_busy {s : State} {op : Word} {snap : Inputs} {lat : Nat} (he : s.engine = .busy op snap lat) :
    exec .clear s = .next (s.wipeInputs.endCommand .noError) :=
  exec_busy .clear he

/-- R59, R220: the wipe leaves in the input group what reset leaves there; a wipe of the reset state changes nothing. -/
theorem readReg_wipeInputs_input {r : Reg} (hr : r.isInput = true) (s : State) :
    readReg s.wipeInputs r = readReg State.reset r :=
  readReg_wipeInputs_congr hr s State.reset

/-- R26: after a success without a dropped write `STATUS` shows DONE alone. -/
theorem statusWord_endCommand_noError {s : State} (hw : s.wdrop = false) :
    (s.endCommand .noError).statusWord = 0x00000002 := by
  simp only [State.statusWord, State.err, State.busy, State.endCommand_wdrop, hw, State.endCommand_errcode,
    State.endCommand_done, State.endCommand_engine, Engine.running]
  decide

/-- R59: with both register groups at their reset values, only `CTRL` and `STATUS` can differ from reset. -/
theorem readReg_eq_reset {s : State} (hi : s.inputs = Inputs.reset) (hz : s.results = Results.zero) {r : Reg}
    (hc : r ≠ .ctrl) (hs : r ≠ .status) : readReg s r = readReg State.reset r := by
  cases r with
  | ctrl => exact absurd rfl hc
  | status => exact absurd rfl hs
  | _ => simp only [readReg, hi, hz, State.reset]

/-- Settles O53: the completion is the wipe; run from its acceptance, the result group is already cleared before it. -/
theorem clearCompletesAndWipesTheInputs : Obligations.ClearCompletesAndWipesTheInputs := by
  refine ⟨fun s op snap lat he => ⟨_, exec_clear_busy he, ⟨fun r hr => ?_, rfl, rfl, rfl⟩, fun r hr => ?_,
    rfl, rfl, rfl, rfl⟩, fun s => ?_⟩
  · obtain ⟨hs, hin⟩ : r ≠ .status ∧ r.isInput = false := by simpa using hr
    exact (readReg_endCommand_frame hs _ _).trans (readReg_wipeInputs_frame hin hs s)
  · have hs : r ≠ .status := by rintro rfl; cases hr
    exact (readReg_endCommand_frame hs _ _).trans (readReg_wipeInputs_input hr s)
  · have hrun : s.runCommand 0x00000005 =
        .next ((s.startCommand 0x00000005).wipeInputs.endCommand .noError) := by
      rw [State.runCommand, (decodeWord_eq_clear_iff _).2 rfl, exec_clear_busy (State.startCommand_engine s _)]
    exact ⟨_, hrun, rfl, statusWord_endCommand_noError rfl, fun r hc hs => readReg_eq_reset rfl rfl hc hs⟩

end Sys2Proof.Machine
end

section
/-! PROOFS. Errors: what the bus refuses (R71, R73, R74, R238), and what a failed command reports and leaves (R231, R240,
R242). -/

namespace Sys2Proof.Machine

/-! ## Refused accesses (R238) -/

/-- R71, R73, R74: the accesses that reach no register. -/
theorem access_reg_eq_none_iff (a : Access) :
    a.reg = none ↔ a.size ≠ 4 ∨ a.off.toNat % 4 ≠ 0 ∨ reservedOffset a.off := by
  rw [Access.reg]
  split_ifs with hsize
  · simp only [regAt_eq_none_iff, hsize, ne_eq, not_true_eq_false, false_or]
  · simp only [hsize, ne_eq, not_false_eq_true, true_or]

/-- R71, R73, R74: the bus refuses what reaches no register and what writes with a lane disabled. -/
theorem refusedByBus_iff (a : Access) :
    a.refusedByBus ↔ a.reg = none ∨ ∃ d strobes, a.kind = .write d strobes ∧ strobes ≠ 0b1111 := by
  simp only [access_reg_eq_none_iff, Access.refusedByBus, or_assoc]

/-- R238: a refused access is answered with ERROR and does nothing else. -/
theorem serve_refused {a : Access} (h : a.refusedByBus) (s : State) (l : Nat) :
    s.serve a l = s.withReply a.errorReply := by
  rw [refusedByBus_iff] at h
  rcases serve_cases s a l with ⟨hk, -, e⟩ | ⟨r, hk, hr, -⟩ | ⟨d, st, hk, -, e⟩ | ⟨r, d, hk, hr, -⟩
  · rw [e, Access.errorReply, hk]
  · simp [hr, hk] at h
  · rw [e, Access.errorReply, hk]
  · simp [hr, hk] at h

/-- Settles O15: the step is the service of the access, which is its ERROR answer alone. -/
theorem refusedAccessesGetErrorAndChangeNothing : Obligations.RefusedAccessesGetErrorAndChangeNothing := by
  intro s a l hs href
  rw [step_served hs, serve_refused href, answered_eq]

/-! ## Failed commands (R231, R240, R242) -/

/-- R56, R231: while a command runs, one whose `Execute` fails completes with that error. -/
theorem exec_completed_of_execute_error {i : Instr} {s : State} {op : Word} {snap : Inputs} {lat : Nat} {e : ErrCode}
    (he : s.engine = .busy op snap lat) (h : execute i snap = .error e) :
    ∃ t, exec i s = .next t ∧ Completed e noReg s t :=
  ⟨_, exec_busy i he, completed_of_execute_error s h⟩

/-- Settles O31: the first failing check of the command is the outcome of its `Execute`. -/
theorem decodeAndCounterErrors : Obligations.DecodeAndCounterErrors :=
  fun _ _ _ _ he =>
    ⟨fun h1 => exec_completed_of_execute_error he (executeDecode_V1 h1),
      fun h1 h2 => exec_completed_of_execute_error he (executeDecode_V2 h1 h2),
      fun h5 => exec_completed_of_execute_error he (executeCounter_V5 h5)⟩

/-- R31, R56: a completion that leaves an error code is that of a failed `Execute`. -/
theorem exists_error_of_finish_errcode {s : State} {out : Except ErrCode Writes}
    (h : (s.finish out).errcode ≠ .noError) : ∃ e, out = .error e := by
  cases out with
  | error e => exact ⟨e, rfl⟩
  | ok w => exact absurd rfl h

/-- Settles O32: the completion of a failure writes no register but `STATUS`, and acceptance before it cleared the result
group alone among the registers a command can write. -/
theorem failedCommandsLeaveInputsAndNoResults : Obligations.FailedCommandsLeaveInputsAndNoResults := by
  intro s t op hrun hne
  rw [runCommand_eq] at hrun
  cases hrun
  obtain ⟨e, he⟩ := exists_error_of_finish_errcode hne
  rw [he, finish_error]
  exact ⟨rfl, fun r hr => readReg_of_results_zero rfl hr, rfl, rfl⟩

end Sys2Proof.Machine
end

section
/-! PROOFS. Reset: when a step stops and why a run goes on while hosts obey reset (R242, R263), and what a reset
abandons (R261). -/

namespace Sys2Proof.Machine

/-! ## A step stops only on an access during reset (R242, R263) -/

/-- R56, R84: outside reset every step answers a next state. -/
theorem step_next_of_rst {s : State} (hr : s.rst = false) : ∃ t, step s = .next t := by
  rcases step_cases s with ⟨hr', -⟩ | ⟨op, snap, lat, -, -, -, hs⟩ | ⟨-, -, hs⟩
  · cases hr.symm.trans hr'
  · exact ⟨_, hs⟩
  · exact ⟨_, hs⟩

/-- Settles O22: outside reset every step goes on, and a reset cycle stops on an access only. -/
theorem stepStopsOnlyOnAnAccessDuringReset : Obligations.StepStopsOnlyOnAnAccessDuringReset := by
  intro s
  cases hr : s.rst with
  | false => exact .inl (step_next_of_rst hr)
  | true =>
    rw [step_inReset hr]
    rcases resetCycle_cases s with ⟨-, hc⟩ | ⟨e, es, -, -, hc⟩ | ⟨a, l, es, hp, hc⟩ | ⟨es, -, hc⟩
    · exact .inl ⟨_, hc⟩
    · exact .inl ⟨_, hc⟩
    · exact .inr ⟨hc, rfl, a, l, es, hp⟩
    · exact .inl ⟨_, hc⟩

/-! ## The schedule from step to step (R84, R260) -/

/-- The level of `rst` after an event, from the level before it (R260). -/
def Event.levelAfter (e : Event) (level : Bool) : Bool :=
  match e with
  | .rst l => l
  | _ => level

/-- A step leaves the schedule and the level of `rst`, or takes the next event and the level it drives. -/
theorem step_schedule {s t : State} (h : step s = .next t) :
    (t.rst = s.rst ∧ t.pending = s.pending) ∨
    (∃ e, s.pending = e :: t.pending ∧ t.rst = e.levelAfter s.rst) := by
  rcases step_cases s with ⟨hr, hs⟩ | ⟨op, snap, lat, -, -, -, hs⟩ | ⟨hr, -, hs⟩
  · rw [hs] at h
    rcases resetCycle_cases s with ⟨hp, hc⟩ | ⟨e, es, hp, hq, hc⟩ | ⟨a, l, es, -, hc⟩ | ⟨es, hp, hc⟩ <;>
      cases hc.symm.trans h
    · exact .inl ⟨hr.symm, hp.symm⟩
    · exact .inr ⟨e, hp, by rcases hq with rfl | rfl <;> simp [Event.levelAfter, hr]⟩
    · exact .inr ⟨_, hp, rfl⟩
  · cases hs.symm.trans h
    obtain ⟨-, hrst, hpending, -⟩ := finish_frame s (execute (decodeWord op) snap)
    exact .inl ⟨hrst, hpending⟩
  · cases hs.symm.trans h
    rcases portCycle_cases s.tick with ⟨-, hc⟩ | ⟨e, es, hp, hq, hc⟩ | ⟨a, l, es, hp, hc⟩ | ⟨es, hp, hc⟩ <;> rw [hc]
    · exact .inl ⟨rfl, rfl⟩
    · exact .inr ⟨e, hp, by rcases hq with rfl | rfl <;> simp [Event.levelAfter, hr]⟩
    · obtain ⟨hrst, hpending, -⟩ := serve_port (s.tick.withPending es) a l
      exact .inr ⟨.access a l, by rw [hpending]; exact hp, hrst⟩
    · exact .inr ⟨_, hp, rfl⟩

/-- R263: a schedule that obeys reset still does after its first event. -/
theorem obeysReset_tail {level : Bool} {e : Event} {es : List Event} (h : obeysReset level (e :: es) = true) :
    obeysReset (e.levelAfter level) es = true := by
  cases e with
  | access a l => exact (Bool.and_eq_true_iff.1 h).2
  | quiet => exact h
  | rst l => exact h

/-- R263: a schedule that obeys reset has no access first while `rst` is asserted. -/
theorem not_obeysReset_access (a : Access) (l : Nat) (es : List Event) :
    obeysReset true (.access a l :: es) = false := rfl

/-- A step keeps the schedule obedient. -/
theorem step_safe {s t : State} (hsafe : s.safe = true) (h : step s = .next t) : t.safe = true := by
  rw [State.safe] at hsafe ⊢
  rcases step_schedule h with ⟨hrst, hp⟩ | ⟨e, hp, hrst⟩
  · rw [hrst, hp]; exact hsafe
  · rw [hrst]; exact obeysReset_tail (hp ▸ hsafe)

/-- From a state whose schedule obeys reset a step goes on. -/
theorem step_next_of_safe {s : State} (hsafe : s.safe = true) : ∃ t, step s = .next t := by
  rcases stepStopsOnlyOnAnAccessDuringReset s with hnext | ⟨-, hr, a, l, es, hp⟩
  · exact hnext
  · rw [State.safe, hr, hp, not_obeysReset_access] at hsafe
    cases hsafe

/-- Settles O23, by induction on the number of steps: a step goes on and keeps the schedule obedient. -/
theorem runsGoOnWhileHostsObeyReset : Obligations.RunsGoOnWhileHostsObeyReset := by
  intro n
  induction n with
  | zero => exact fun s hsafe => ⟨s, run_zero s, hsafe⟩
  | succ n ih =>
    intro s hsafe
    obtain ⟨t, ht⟩ := step_next_of_safe hsafe
    rw [run_next n ht]
    exact ih t (step_safe hsafe ht)

/-! ## A reset abandons a running command (R260, R261) -/

/-- Settles O21: the assertion puts the block into reset, and the release leaves the reset state. -/
theorem resetAbandonsARunningCommand : Obligations.ResetAbandonsARunningCommand := by
  intro s es hr hd hp
  have hassert : step s = .next (heldInReset (.rst false :: es)) := by
    have hp' : s.tick.pending = .rst true :: .rst false :: es := hp
    rw [step_port hr hd, State.portCycle, hp']
  have hrelease : step (heldInReset (.rst false :: es)) = .next (releasedFromReset es) := rfl
  rw [run_next 1 hassert, run_next 0 hrelease]
  rfl

end Sys2Proof.Machine
end

section
/-! PROOFS. Hazards at the port: the arms of a host write (R270), what a host reads while a command runs (R271), how
long results stay (R276), and that a running command completes undisturbed (R268). -/

namespace Sys2Proof.Machine

/-! ## A host write, arm by arm (R270) -/

section
variable {s : State} {r : Reg} {d : Word}

/-- R75: a write to a read-only register is answered and does nothing else. -/
theorem written_readOnly (h : r.isReadOnly = true) (l : Nat) : s.written r d l = s.answered (.write .okay) := by
  rw [State.written, hostWrite_readOnly h, answered_eq]

/-- R24: a `CTRL` write stores data bit 0. -/
theorem written_ctrl (l : Nat) :
    s.written .ctrl d l = { s.answered (.write .okay) with irqEn := d.getLsbD 0 } := rfl

/-- R26: data bits 1 and 3 of a `STATUS` write clear DONE and WDROP. -/
theorem written_status (l : Nat) :
    s.written .status d l = { s.answered (.write .okay) with
      done := if d.getLsbD 1 then false else s.done, wdrop := if d.getLsbD 3 then false else s.wdrop } := by
  have hclear : ∀ b c : Bool, (if c then false else b) = (b && !c) := by decide
  rw [hclear, hclear]
  rfl

/-- R270: an input-group write while busy is dropped. -/
theorem written_busy (hi : r.isInput = true) (hb : s.busy = true) (l : Nat) :
    s.written r d l = { s.answered (.write .okay) with wdrop := true } := by
  rw [State.written, hostWrite_busy hi (by simpa using hb)]
  rfl

/-- R270: an input-group write while idle, other than to `CMD`, is stored. -/
theorem written_input (hi : r.isInput = true) (hc : r ≠ .cmd) (hb : s.busy = false) (l : Nat) :
    s.written r d l = { s.answered (.write .okay) with inputs := s.inputs.write r d } := by
  rw [State.written, hostWrite_input hi hc (by simpa using hb)]
  rfl

/-- A host reads every register as before after an access that is only answered. -/
theorem readReg_answered (p : BusReply) (r' : Reg) : readReg (s.answered p) r' = readReg s r' :=
  readReg_tick_withPending s s.pending.tail r'

end

/-- R32 to R37, R45: what a host reads after a write that is stored; `STATUS` does not change. -/
theorem readReg_written_input {s : State} {r : Reg} (hi : r.isInput = true) (hc : r ≠ .cmd) (hb : s.busy = false)
    (d : Word) (l : Nat) (r' : Reg) :
    readReg (s.written r d l) r' = if r' = r then (if r = .config then d &&& configMask else d) else readReg s r' := by
  rw [written_input hi hc hb]
  by_cases hs : r' = .status
  · subst hs
    have hne : Reg.status ≠ r := by rintro rfl; cases hi
    rw [if_neg hne]
    exact readReg_answered (s := s) (.write .okay) .status
  · rw [← readReg_answered (s := s) (.write .okay) r']
    exact readReg_write _ r r' d hi hc hs

/-- Settles O16, by the kind of register the offset names. -/
theorem hostWriteFollowsItsRule : Obligations.HostWriteFollowsItsRule := by
  intro s off d l hserved
  refine ⟨fun hoff => ?_, ?_⟩
  · exact refusedAccessesGetErrorAndChangeNothing s _ l hserved (.inr (hoff.imp_right .inl))
  rintro r rfl
  have hstep : step s = .next (s.written r d l) := step_written hserved
  rw [hstep]
  refine ⟨fun hr => ?_, ?_, ?_, fun hi hb => ?_, ?_, fun hi hc hb => ?_⟩
  · have hro : r.isReadOnly = true := by simpa [Reg.isReadOnly, or_assoc] using hr
    rw [written_readOnly hro]
  · rintro rfl
    rw [written_ctrl]
  · rintro rfl
    rw [written_status]
  · rw [written_busy hi hb]
  · rintro rfl hb
    refine ⟨max l 1, Nat.le_max_right l 1, ?_⟩
    rw [written_cmd hb, ← answered_eq, tick_of_not_busy hb]
    rfl
  · refine ⟨_, rfl, ?_, ?_, fun r' hne => ?_⟩
    · rw [written_input hi hc hb]
    · rw [readReg_written_input hi hc hb, if_pos rfl]
      rfl
    · rw [readReg_written_input hi hc hb, if_neg hne]

/-! ## What a host reads while a command runs (R271) -/

/-- R26, R271: while a command runs with DONE and ERRCODE 0, `STATUS` shows BUSY and WDROP alone. -/
theorem statusWord_running {s : State} (hb : s.busy = true) (hd : s.done = false) (he : s.errcode = .noError) :
    s.statusWord = if s.wdrop then 0x00000009 else 0x00000001 := by
  rw [State.statusWord, State.err, hb, hd, he]
  cases s.wdrop <;> decide

/-- Settles O18: the invariant says what the engine, the inputs and the results are while a command runs. -/
theorem readsWhileBusyShowNoResults : Obligations.ReadsWhileBusyShowNoResults := by
  intro s op snap lat hinv he
  obtain ⟨rfl, hz, hd, herr, -⟩ := hinv.running op snap lat he
  have hb : s.busy = true := by rw [State.busy, he]; rfl
  refine ⟨fun r hr => readReg_of_results_zero hz hr, fun r _ => rfl, statusWord_running hb hd herr, fun r l hs => ?_⟩
  obtain ⟨-, hread⟩ := readsAnswerTheRegisterAndChangeNothing
  obtain ⟨hstep, -⟩ := hread s r l hs
  exact ⟨_, hstep, rfl⟩

/-! ## How long results stay (R276) -/

/-- R55, R270: of all host writes only an acceptance changes the results. -/
theorem hostWrite_results_eq (s : State) (r : Reg) (d : Word) (l : Nat) (h : ¬ (r = .cmd ∧ s.busy = false)) :
    (s.hostWrite r d l).results = s.results := by
  rcases hostWrite_cases s r d l with ⟨-, e⟩ | ⟨-, e⟩ | ⟨-, e⟩ | ⟨-, -, e⟩ | ⟨hc, hb, -⟩ | ⟨-, -, -, e⟩
  case inr.inr.inr.inr.inl => exact absurd ⟨hc, hb⟩ h
  all_goals exact (congrArg State.results e).trans rfl

theorem written_results_eq (s : State) (r : Reg) (d : Word) (l : Nat) (h : ¬ (r = .cmd ∧ s.busy = false)) :
    (s.written r d l).results = s.results :=
  hostWrite_results_eq _ r d l (by simpa using h)

/-- R56: an idle block completes nothing. -/
theorem not_completing_of_idle {s : State} (hb : s.busy = false) : ¬ s.completing :=
  fun ⟨_, hd⟩ => hd (due_none_of_idle (idle_of_not_busy hb))

/-- Settles O26, by the kind of step: only an acceptance changes the results in the service of an access. -/
theorem resultsStayUntilTheNextAcceptanceOrReset : Obligations.ResultsStayUntilTheNextAcceptanceOrReset := by
  intro s t hb h
  refine ⟨fun ha => ?_, fun hr => ?_, fun ha hr => ?_⟩
  · obtain ⟨d, l, rfl⟩ := step_accepting h ha
    rfl
  · exact resetting_value State.results h hr (fun _ => rfl) fun _ => rfl
  · exact step_keeps State.results h (not_completing_of_idle hb) hr (fun _ _ => rfl) fun r d l hs =>
      written_results_eq s r d l (not_cmd_write_of_not_accepting ha hs)

/-! ## A running command completes undisturbed (R54, R268, R270) -/

/-- A step outside reset whose schedule does not begin with an assertion of `rst` is no reset. -/
theorem not_resetting_of_noReset {s : State} {n : Nat} (hr : s.rst = false) (h : noResetWithin (n + 1) s.pending) :
    ¬ s.resetting := by
  rintro (hr' | ⟨-, hp⟩)
  · cases hr.symm.trans hr'
  · obtain ⟨es, hes⟩ := List.head?_eq_some_iff.1 hp
    exact h (.rst true) (by simp [hes]) rfl

/-- After a step the rest of the schedule is free of resets for one event less. -/
theorem noResetWithin_step {s t : State} {n : Nat} (h : noResetWithin (n + 1) s.pending) (hs : step s = .next t) :
    noResetWithin n t.pending := by
  intro e he
  refine h e ?_
  rcases step_schedule hs with ⟨-, hp⟩ | ⟨e', hp, -⟩
  · rw [← hp]
    exact List.take_subset_take_left _ (Nat.le_succ n) he
  · rw [hp, List.take_succ_cons]
    exact List.mem_cons_of_mem _ he

/-- R54, R270: a step before the completion counts one cycle down, and leaves the command and what it ends in as they
are. -/
theorem step_running {s : State} {op : Word} {snap : Inputs} {n : Nat} (hr : s.rst = false)
    (he : s.engine = .busy op snap (n + 2)) (hno : noResetWithin (n + 1) s.pending) :
    ∃ t, step s = .next t ∧ t.rst = false ∧ t.engine = .busy op snap (n + 1) ∧ t.inputs = s.inputs ∧
      t.results = s.results := by
  have hb : s.busy = true := by rw [State.busy, he]; rfl
  have hd : s.engine.due = none := due_none_of_lat he (Nat.le_add_left 2 n)
  have htick : s.engine.tick = .busy op snap (n + 1) := by rw [he]; rfl
  obtain ⟨t, ht⟩ := step_next_of_rst hr
  refine ⟨t, ht, ?_⟩
  rcases step_effects ht with ⟨hreset, -⟩ | ⟨-, -, -, hc, -⟩ | ⟨r, d, l, -, rfl⟩ | ⟨-, -, es, p, rfl⟩
  · exact absurd hreset (not_resetting_of_noReset hr hno)
  · exact absurd hd hc.2
  · obtain ⟨hrst, -, -⟩ := hostWrite_port (s.tick.withPending s.pending.tail) r d l
    have hidle : ¬ s.busy = false := by simp [hb]
    refine ⟨hrst.trans hr, (hostWrite_engine_of_busy ?_ r d l).trans htick,
      written_inputs_eq s r d l (fun h => hidle h.2), written_results_eq s r d l (fun h => hidle h.2)⟩
    simpa using hb
  · exact ⟨hr, htick, rfl, rfl⟩

/-- R56, R92: the inputs and results a completion leaves depend on those before it, on the command and on the
snapshot. -/
theorem finish_execute_inputs_results_congr {s t : State} (hi : t.inputs = s.inputs) (hz : t.results = s.results)
    (i : Instr) (snap : Inputs) :
    (t.finish (execute i snap)).inputs = (s.finish (execute i snap)).inputs ∧
      (t.finish (execute i snap)).results = (s.finish (execute i snap)).results := by
  rcases execute_cases i snap with
    ⟨e, -, h⟩ | ⟨-, k, h⟩ | ⟨-, c, h⟩ | ⟨-, o, h⟩ | ⟨-, c, o, h⟩ | ⟨-, h⟩ <;> simp [h, hi, hz]

/-- R268: a run over the cycles that are left ends in the completion, from the inputs and results of the start. -/
theorem run_running {op : Word} {snap : Inputs} (n : Nat) {lat : Nat} (hn : lat - 1 = n) {s : State}
    (hr : s.rst = false) (he : s.engine = .busy op snap lat) (hno : noResetWithin n s.pending) :
    ∃ u : State, u.inputs = s.inputs ∧ u.results = s.results ∧
      Host.Core.run Sys2Proof.core (n + 1) s = .next (u.finish (execute (decodeWord op) snap)) := by
  induction n generalizing s lat with
  | zero =>
    have hs : step s = .next (s.finish (execute (decodeWord op) snap)) := by
      rw [step_due hr he (by omega), exec_busy _ he]
    exact ⟨s, rfl, rfl, run_next 0 hs⟩
  | succ n ih =>
    obtain rfl : lat = n + 2 := by omega
    obtain ⟨t, ht, hr', he', hi, hz⟩ := step_running hr he hno
    obtain ⟨u, hui, huz, hrun⟩ := ih rfl hr' he' (noResetWithin_step hno ht)
    exact ⟨u, hui.trans hi, huz.trans hz, (run_next (n + 1) ht).trans hrun⟩

/-- Settles O28: until the completion only the latency counts down, so it has the outcome of completing at once, and
starts from the same inputs and results. -/
theorem aRunningCommandCompletesUndisturbed : Obligations.ARunningCommandCompletesUndisturbed := by
  intro s op snap lat hr he hno
  obtain ⟨u, hi, hz, hrun⟩ := run_running (lat - 1) rfl hr he hno
  obtain ⟨-, -, -, -, hidle, hdone⟩ := finish_frame u (execute (decodeWord op) snap)
  obtain ⟨hinputs, hresults⟩ := finish_execute_inputs_results_congr hi hz (decodeWord op) snap
  have hlat : max lat 1 = lat - 1 + 1 := by omega
  refine ⟨_, _, hlat ▸ hrun, exec_busy _ he, ?_, hdone, finish_errcode_congr u s _, hresults, hinputs⟩
  rw [State.busy, hidle]; rfl

end Sys2Proof.Machine
end
